-- ==== Sys2Proof/Word.lean ====
section
/-!
DEFINITION. The bit-vector types of the Project-2 CORE.

A register, a program counter, a data cell and a data-cell key are 64-bit patterns (10_state.md
section 1, R20, R25, R28); an instruction is a 32-bit word (30_encoding.md R70); a register index is
a 5-bit field value (10_state.md R20).
-/

namespace Sys2Proof

/-- A 64-bit value: register contents, the program counter, the contents of a data cell (R7). -/
abbrev Word := BitVec 64

/-- A 32-bit instruction word (R70); bit 31 is the most significant (R8). -/
abbrev InstrWord := BitVec 32

/-- A register index, 0 to 31 (R20). -/
abbrev Reg := BitVec 5

/-- The key of a data cell: a 64-bit pattern, which the spec also reads as a signed integer
(20_memory.md R50). -/
abbrev Key := BitVec 64

end Sys2Proof
end

