-- ==== Sys2Proof/Config.lean ====
section
/-!
DEFINITION. The named parameters of the hardware (00_scope.md R7): PC_BASE, PC_STEP, the program
image IMAGE with its slots, and ORR_MODE.

The spec leaves no value undefined, so there is no free value here: no opaque constant. IMAGE and
ORR_MODE are plain data, fixed before the first step; the state carries them (log 1).
-/

namespace Sys2Proof

/-- PC_BASE, the address of slot 0 and the reset pc (R7, R28, R231). -/
def pcBase : Nat := 96

/-- PC_STEP, the distance of two slots and the default pc advance (R7, R27, R29). -/
def pcStep : Nat := 4

/-- One entry of IMAGE (R15, R27): a 32-bit word, or the value `Invalid` of a malformed input line. -/
inductive Slot where
  | word (w : InstrWord)
  | invalid
  deriving DecidableEq, Repr

/-- ORR_MODE (R7, 40_r_format.md R104): whether ORR computes inclusive OR or mutates nothing. -/
inductive OrrMode where
  /-- ORR computes `x[rn] | x[rm]`, the default (D4). -/
  | or
  /-- ORR is the "Unrecognized Secondary Discriminator" case (R187). -/
  | noEffect
  deriving DecidableEq, Repr

/-- The parameters a run is started with and that no step changes: IMAGE (slot `k` at address
`96 + 4 * k`, N its length, R27) and ORR_MODE. -/
structure Config where
  image : List Slot
  orrMode : OrrMode
  deriving DecidableEq, Repr

/-- No slot, and ORR_MODE at its default. DESIGN CHOICE (log 2) for the image: the spec names no
default IMAGE. -/
def Config.default : Config := { image := [], orrMode := .or }

end Sys2Proof
end

