-- ==== Sys2Proof/Syntax.lean ====
section
/-!
DEFINITION. Instructions as syntax: the 19 mnemonics and the formats (30_encoding.md R71 to R78,
R83), the decoded instruction `Instr` with one constructor per row of spec/opcode_table.json, and
the assembler line of 30_encoding.md R96.

An operand of `Instr` is the bit field it stands in, at that field's exact width (R79), so every
term of `Instr` is in range by its type. The fields no rule reads (shamt in format R, rm in format
SHIFT, op2 in format D) are no operands: they never change the decode or the result (R88, log 11).
-/

namespace Sys2Proof

/-- The 19 mnemonics of the opcode map (R83). BREAK is spelled `brk`, since `break` is a word of
Lean's. -/
inductive Mnemonic where
  | add | sub | and | orr | eor | addi | subi | lsl | lsr | asr | ldur | stur
  | b | cbz | cbnz | movz | movk | nop | brk
  deriving DecidableEq, Repr

/-- The Format Tags (00_scope.md R14). -/
inductive Format where
  | r | i | d | b | cb | im | shift | nop | brk | unknown
  deriving DecidableEq, Repr

/-- A decoded instruction: one constructor per row of spec/opcode_table.json. -/
inductive Instr where
  /-- ADD `Rd, Rn, Rm` (40_r_format.md R101). -/
  | add (rd rn rm : Reg)
  /-- SUB `Rd, Rn, Rm` (R102). -/
  | sub (rd rn rm : Reg)
  /-- AND `Rd, Rn, Rm` (R103). -/
  | and (rd rn rm : Reg)
  /-- ORR `Rd, Rn, Rm` (R104). -/
  | orr (rd rn rm : Reg)
  /-- EOR `Rd, Rn, Rm` (R105). -/
  | eor (rd rn rm : Reg)
  /-- ADDI `Rd, Rn, #imm`, the immediate signed (41_i_format.md R121). -/
  | addi (rd rn : Reg) (imm : BitVec 12)
  /-- SUBI `Rd, Rn, #imm`, the immediate signed (R122). -/
  | subi (rd rn : Reg) (imm : BitVec 12)
  /-- LSL `Rd, Rn, #shamt` (42_shift.md R131). -/
  | lsl (rd rn : Reg) (shamt : BitVec 6)
  /-- LSR `Rd, Rn, #shamt` (R132). -/
  | lsr (rd rn : Reg) (shamt : BitVec 6)
  /-- ASR `Rd, Rn, #shamt` (R133). -/
  | asr (rd rn : Reg) (shamt : BitVec 6)
  /-- LDUR `Rt, [Rn, #offset]`, the offset unsigned (43_load_store.md R141). -/
  | ldur (rt rn : Reg) (offset : BitVec 9)
  /-- STUR `Rt, [Rn, #offset]`, the offset unsigned (R142). -/
  | stur (rt rn : Reg) (offset : BitVec 9)
  /-- B `#offset`, the offset signed, in instructions (44_branch.md R151). -/
  | b (offset : BitVec 26)
  /-- CBZ `Rt, #offset`, the offset signed, in instructions (R152). -/
  | cbz (rt : Reg) (offset : BitVec 19)
  /-- CBNZ `Rt, #offset`, the offset signed, in instructions (R153). -/
  | cbnz (rt : Reg) (offset : BitVec 19)
  /-- MOVZ `Rd, #field, LSL #(16 * hw)` (45_move_wide.md R171). -/
  | movz (rd : Reg) (field : BitVec 16) (hw : BitVec 2)
  /-- MOVK `Rd, #field, LSL #(16 * hw)` (R172). -/
  | movk (rd : Reg) (field : BitVec 16) (hw : BitVec 2)
  /-- NOP, a whole word (46_nop_break_unknown.md R180). -/
  | nop
  /-- BREAK, a whole word (R181). -/
  | brk
  deriving DecidableEq, Repr

/-- The mnemonic an instruction stands for. -/
def Instr.mnemonic : Instr → Mnemonic
  | .add .. => .add
  | .sub .. => .sub
  | .and .. => .and
  | .orr .. => .orr
  | .eor .. => .eor
  | .addi .. => .addi
  | .subi .. => .subi
  | .lsl .. => .lsl
  | .lsr .. => .lsr
  | .asr .. => .asr
  | .ldur .. => .ldur
  | .stur .. => .stur
  | .b .. => .b
  | .cbz .. => .cbz
  | .cbnz .. => .cbnz
  | .movz .. => .movz
  | .movk .. => .movk
  | .nop => .nop
  | .brk => .brk

/-- The format of a mnemonic (the format column of R83). -/
def Mnemonic.format : Mnemonic → Format
  | .add => .r
  | .sub => .r
  | .and => .r
  | .orr => .r
  | .eor => .r
  | .addi => .i
  | .subi => .i
  | .lsl => .shift
  | .lsr => .shift
  | .asr => .shift
  | .ldur => .d
  | .stur => .d
  | .b => .b
  | .cbz => .cb
  | .cbnz => .cb
  | .movz => .im
  | .movk => .im
  | .nop => .nop
  | .brk => .brk

/-- One assembler line with the operands as R96 writes them: registers `R<i>` and immediates in
decimal, the offset of B and CB counted in instructions, the shift of IM in bits. Operands are plain
numbers here, so a line can be out of range; Sys2Proof/WellFormed.lean says which lines are not. -/
inductive AsmLine where
  /-- `MNEM Rd, Rn, Rm` -/
  | r (m : Mnemonic) (rd rn rm : Nat)
  /-- `MNEM Rd, Rn, #imm` -/
  | i (m : Mnemonic) (rd rn : Nat) (imm : Int)
  /-- `MNEM Rd, Rn, #shamt` -/
  | shift (m : Mnemonic) (rd rn shamt : Nat)
  /-- `MNEM Rt, [Rn, #offset]` -/
  | d (m : Mnemonic) (rt rn offset : Nat)
  /-- `B #offset` -/
  | b (m : Mnemonic) (offset : Int)
  /-- `MNEM Rt, #offset` -/
  | cb (m : Mnemonic) (rt : Nat) (offset : Int)
  /-- `MNEM Rd, #field, LSL #shift` -/
  | im (m : Mnemonic) (rd field shift : Nat)
  /-- `NOP` -/
  | nop
  /-- `BREAK` -/
  | brk
  deriving DecidableEq, Repr

end Sys2Proof
end

