-- ==== Sys2Proof/WellFormed.lean ====
section
/-!
DEFINITION. Well-formedness of what a program is written in: the assembler line of 30_encoding.md
R96, whose operands are plain numbers (R98: "whenever every operand is in range").

A decoded instruction needs no check of its own: each operand of `Instr` is a bit field at its exact
width (R79), so an ill-formed `Instr` cannot be written. The ranges below are those of R79.
-/

namespace Sys2Proof

/-- A register index of an assembler line, `R0` to `R31` (R20, R96). -/
def regInRange (i : Nat) : Bool := i < 32

/-- The signed immediate of format I: -2048 to 2047 (R79). -/
def immInRange (v : Int) : Bool := -2048 ≤ v && v ≤ 2047

/-- The unsigned, unscaled offset of format D: 0 to 511 (R79). -/
def offsetDInRange (v : Nat) : Bool := v < 512

/-- The offset of B in instructions: 26 bits signed (R79, R98). -/
def offsetBInRange (v : Int) : Bool := -33554432 ≤ v && v ≤ 33554431

/-- The offset of CBZ and CBNZ in instructions: 19 bits signed (R79, R98). -/
def offsetCBInRange (v : Int) : Bool := -262144 ≤ v && v ≤ 262143

/-- The unsigned field of format IM: 0 to 65535 (R79). -/
def fieldInRange (v : Nat) : Bool := v < 65536

/-- The shift of format IM: 0, 16, 32 or 48 (R79). -/
def imShiftInRange (v : Nat) : Bool := v == 0 || v == 16 || v == 32 || v == 48

/-- The shift amount of format SHIFT: 0 to 63 (R79). -/
def shamtInRange (v : Nat) : Bool := v < 64

/-- A line is well formed when its mnemonic belongs to the line's form and every operand is in the
range its field admits. -/
def AsmLine.wellFormed : AsmLine → Bool
  | .r m rd rn rm => m.format == .r && regInRange rd && regInRange rn && regInRange rm
  | .i m rd rn imm => m.format == .i && regInRange rd && regInRange rn && immInRange imm
  | .shift m rd rn shamt => m.format == .shift && regInRange rd && regInRange rn && shamtInRange shamt
  | .d m rt rn offset => m.format == .d && regInRange rt && regInRange rn && offsetDInRange offset
  | .b m offset => m.format == .b && offsetBInRange offset
  | .cb m rt offset => m.format == .cb && regInRange rt && offsetCBInRange offset
  | .im m rd field amount => m.format == .im && regInRange rd && fieldInRange field && imShiftInRange amount
  | .nop => true
  | .brk => true

end Sys2Proof
end

