-- ==== Sys2Proof/Decode.lean ====
section
/-!
DEFINITION. The instruction decoder and the field extractor (30_encoding.md, 70_reset_and_hazards.md
R240, R241), the encoder beside them (R98), and the reading of an input line as a slot (R27, R87).

Decoding is total (R82): every 32-bit word gives an instruction or UNKNOWN, by name, and a slot that
is no word is `Invalid` and is not decoded at all. A slot is one whole word, so no byte order comes
into it (20_memory.md R57).
-/

namespace Sys2Proof

/-! ### Bit fields -/

/-- `w[lo + len - 1 : lo]` (00_scope.md R9). -/
def bits (w : InstrWord) (lo len : Nat) : BitVec len := w.extractLsb' lo len

/-- A field value at its bit position, every other bit 0 (R98). -/
def place {len : Nat} (v : BitVec len) (lo : Nat) : InstrWord := v.setWidth 32 <<< lo

/-! ### The opcode map (R83) -/

/-- One row of the opcode map: a mnemonic, its format, its leading bits read as a number (`code`),
how many they are, and the same row as a match and a mask. -/
structure OpcodeRow where
  mnemonic : Mnemonic
  format   : Format
  length   : Nat
  code     : Nat
  pattern  : InstrWord
  mask     : InstrWord
  deriving DecidableEq, Repr

/-- The two whole-word rows, which decode tries first (R80, R84, R85). -/
def wholeWordRows : List OpcodeRow :=
  [ ⟨.nop, .nop, 32, 0b00000000000000000000000000000000, 0x00000000#32, 0xFFFFFFFF#32⟩,
    ⟨.brk, .brk, 32, 0b11111110110111101111111111100111, 0xFEDEFFE7#32, 0xFFFFFFFF#32⟩ ]

/-- The 17 rows with fewer than 32 leading bits, in the order of R83. -/
def leadingBitRows : List OpcodeRow :=
  [ ⟨.add,  .r,     11, 0b10001011000, 0x8B000000#32, 0xFFE00000#32⟩,
    ⟨.sub,  .r,     11, 0b11001011000, 0xCB000000#32, 0xFFE00000#32⟩,
    ⟨.and,  .r,     11, 0b10001010000, 0x8A000000#32, 0xFFE00000#32⟩,
    ⟨.orr,  .r,     11, 0b10101010000, 0xAA000000#32, 0xFFE00000#32⟩,
    ⟨.eor,  .r,     11, 0b11101010000, 0xEA000000#32, 0xFFE00000#32⟩,
    ⟨.addi, .i,     10, 0b1001000100,  0x91000000#32, 0xFFC00000#32⟩,
    ⟨.subi, .i,     10, 0b1101000100,  0xD1000000#32, 0xFFC00000#32⟩,
    ⟨.lsl,  .shift, 11, 0b11010011011, 0xD3600000#32, 0xFFE00000#32⟩,
    ⟨.lsr,  .shift, 11, 0b11010011010, 0xD3400000#32, 0xFFE00000#32⟩,
    ⟨.asr,  .shift, 11, 0b11010011100, 0xD3800000#32, 0xFFE00000#32⟩,
    ⟨.ldur, .d,     11, 0b11111000010, 0xF8400000#32, 0xFFE00000#32⟩,
    ⟨.stur, .d,     11, 0b11111000000, 0xF8000000#32, 0xFFE00000#32⟩,
    ⟨.b,    .b,      6, 0b000101,      0x14000000#32, 0xFC000000#32⟩,
    ⟨.cbz,  .cb,     8, 0b10110100,    0xB4000000#32, 0xFF000000#32⟩,
    ⟨.cbnz, .cb,     8, 0b10110101,    0xB5000000#32, 0xFF000000#32⟩,
    ⟨.movz, .im,     9, 0b110100101,   0xD2800000#32, 0xFF800000#32⟩,
    ⟨.movk, .im,     9, 0b111100101,   0xF2800000#32, 0xFF800000#32⟩ ]

/-- All 19 rows, the whole-word rows first. -/
def opcodeMap : List OpcodeRow := wholeWordRows ++ leadingBitRows

/-- `w[31 : 32 - r.length] = r.code`, the test of R80. -/
def OpcodeRow.matches (r : OpcodeRow) (w : InstrWord) : Bool :=
  (bits w (32 - r.length) r.length).toNat == r.code

/-- `(w & mask) = match`, the same test as R83 words it. -/
def OpcodeRow.maskMatches (r : OpcodeRow) (w : InstrWord) : Bool :=
  w &&& r.mask == r.pattern

/-- The classifier (R80): the first row that matches. -/
def classify (w : InstrWord) : Option OpcodeRow := opcodeMap.find? (·.matches w)

/-! ### The field extractor (R71 to R79, R241) -/

/-- The fields of the layout tables R71 to R78. -/
inductive FieldName where
  | opcode | rm | shamt | rn | rd | rt | imm | offset | op2 | hw | field
  deriving DecidableEq, Repr

/-- Bits `hi` down to `lo` of a format's layout. -/
structure FieldSpan where
  name : FieldName
  hi   : Nat
  lo   : Nat
  deriving DecidableEq, Repr

/-- How many bits a span takes (R9). -/
def FieldSpan.width (f : FieldSpan) : Nat := f.hi - f.lo + 1

/-- The layout tables of R71 to R78, most significant field first. -/
def Format.layout : Format → List FieldSpan
  | .r | .shift => [⟨.opcode, 31, 21⟩, ⟨.rm, 20, 16⟩, ⟨.shamt, 15, 10⟩, ⟨.rn, 9, 5⟩, ⟨.rd, 4, 0⟩]
  | .i => [⟨.opcode, 31, 22⟩, ⟨.imm, 21, 10⟩, ⟨.rn, 9, 5⟩, ⟨.rd, 4, 0⟩]
  | .d => [⟨.opcode, 31, 21⟩, ⟨.offset, 20, 12⟩, ⟨.op2, 11, 10⟩, ⟨.rn, 9, 5⟩, ⟨.rt, 4, 0⟩]
  | .b => [⟨.opcode, 31, 26⟩, ⟨.offset, 25, 0⟩]
  | .cb => [⟨.opcode, 31, 24⟩, ⟨.offset, 23, 5⟩, ⟨.rt, 4, 0⟩]
  | .im => [⟨.opcode, 31, 23⟩, ⟨.hw, 22, 21⟩, ⟨.field, 20, 5⟩, ⟨.rd, 4, 0⟩]
  | .nop | .brk => [⟨.opcode, 31, 0⟩]
  | .unknown => []

/-- What a field means in a format (the kind column of R79; `ignored` for the fields of R88). -/
inductive FieldKind where
  | opcode | registerIndex | signedImmediate | unsignedByteOffset | signedPcDisplacement
  | unsignedImmediate | unsignedShiftCode | unsignedShiftAmount | ignored
  deriving DecidableEq, Repr

/-- The kind column of R79, with the ignored fields of R88. -/
def Format.fieldKind (fmt : Format) : FieldName → FieldKind
  | .opcode => .opcode
  | .rm => if fmt = .shift then .ignored else .registerIndex
  | .shamt => if fmt = .shift then .unsignedShiftAmount else .ignored
  | .rn => .registerIndex
  | .rd => .registerIndex
  | .rt => .registerIndex
  | .imm => .signedImmediate
  | .offset => if fmt = .d then .unsignedByteOffset else .signedPcDisplacement
  | .op2 => .ignored
  | .hw => .unsignedShiftCode
  | .field => .unsignedImmediate

/-- A typed field of a Decoded Instruction, "carrying the exact bit width it was extracted from"
(R79): its unsigned bits, and the operand value R79 builds from them. -/
structure Field where
  name  : FieldName
  kind  : FieldKind
  width : Nat
  raw   : Nat
  value : Int
  deriving DecidableEq, Repr

/-- The two's-complement value of a `width`-bit field (00_scope.md R10). -/
def signedValue (width raw : Nat) : Int :=
  if raw < 2 ^ (width - 1) then raw else (raw : Int) - 2 ^ width

/-- The value column of R79: sign extension for a signed immediate, sign extension times 4 for a pc
displacement, zero extension for everything else. -/
def FieldKind.operandValue (k : FieldKind) (width raw : Nat) : Int :=
  match k with
  | .signedImmediate => signedValue width raw
  | .signedPcDisplacement => signedValue width raw * 4
  | _ => raw

/-- One field sliced out of a word. -/
def FieldSpan.extract (f : FieldSpan) (fmt : Format) (w : InstrWord) : Field :=
  let raw := (bits w f.lo f.width).toNat
  { name := f.name, kind := fmt.fieldKind f.name, width := f.width, raw := raw,
    value := (fmt.fieldKind f.name).operandValue f.width raw }

/-- `extract(format, w)` of R80: the ordered operand fields of a word. -/
def extractFields (fmt : Format) (w : InstrWord) : List Field :=
  (fmt.layout.filter (·.name != .opcode)).map (·.extract fmt w)

/-! ### Decode (R80) -/

/-- The outcome of decode: a Decoded Instruction, or UNKNOWN (R80, R82, R86). -/
inductive Decoded where
  | instr (i : Instr)
  /-- No row of the opcode map matches the word (R86); not a trap, but a skipped step (R186). -/
  | unknown
  deriving DecidableEq, Repr

/-- rd, or rt: `w[4:0]` (R79). -/
def fieldRd (w : InstrWord) : Reg := bits w 0 5
/-- rn: `w[9:5]` (R79). -/
def fieldRn (w : InstrWord) : Reg := bits w 5 5
/-- rm: `w[20:16]` (R71, R79). -/
def fieldRm (w : InstrWord) : Reg := bits w 16 5
/-- shamt: `w[15:10]` (R77, R79). -/
def fieldShamt (w : InstrWord) : BitVec 6 := bits w 10 6
/-- The format I immediate: `w[21:10]` (R72, R79). -/
def fieldImm (w : InstrWord) : BitVec 12 := bits w 10 12
/-- The format D offset: `w[20:12]` (R73, R79). -/
def fieldOffsetD (w : InstrWord) : BitVec 9 := bits w 12 9
/-- The format B offset: `w[25:0]` (R74, R79). -/
def fieldOffsetB (w : InstrWord) : BitVec 26 := bits w 0 26
/-- The format CB offset: `w[23:5]` (R75, R79). -/
def fieldOffsetCB (w : InstrWord) : BitVec 19 := bits w 5 19
/-- The format IM field: `w[20:5]` (R76, R79). -/
def fieldImm16 (w : InstrWord) : BitVec 16 := bits w 5 16
/-- The format IM shift code: `w[22:21]` (R76, R79). -/
def fieldHw (w : InstrWord) : BitVec 2 := bits w 21 2

/-- The instruction a word of a given mnemonic stands for: its operands as R71 to R78 lay them
out. -/
def instrOf (m : Mnemonic) (w : InstrWord) : Instr :=
  match m with
  | .add => .add (fieldRd w) (fieldRn w) (fieldRm w)
  | .sub => .sub (fieldRd w) (fieldRn w) (fieldRm w)
  | .and => .and (fieldRd w) (fieldRn w) (fieldRm w)
  | .orr => .orr (fieldRd w) (fieldRn w) (fieldRm w)
  | .eor => .eor (fieldRd w) (fieldRn w) (fieldRm w)
  | .addi => .addi (fieldRd w) (fieldRn w) (fieldImm w)
  | .subi => .subi (fieldRd w) (fieldRn w) (fieldImm w)
  | .lsl => .lsl (fieldRd w) (fieldRn w) (fieldShamt w)
  | .lsr => .lsr (fieldRd w) (fieldRn w) (fieldShamt w)
  | .asr => .asr (fieldRd w) (fieldRn w) (fieldShamt w)
  | .ldur => .ldur (fieldRd w) (fieldRn w) (fieldOffsetD w)
  | .stur => .stur (fieldRd w) (fieldRn w) (fieldOffsetD w)
  | .b => .b (fieldOffsetB w)
  | .cbz => .cbz (fieldRd w) (fieldOffsetCB w)
  | .cbnz => .cbnz (fieldRd w) (fieldOffsetCB w)
  | .movz => .movz (fieldRd w) (fieldImm16 w) (fieldHw w)
  | .movk => .movk (fieldRd w) (fieldImm16 w) (fieldHw w)
  | .nop => .nop
  | .brk => .brk

/-- `decode(w)` of R80. -/
def decode (w : InstrWord) : Decoded :=
  match classify w with
  | some row => .instr (instrOf row.mnemonic w)
  | none => .unknown

/-! ### Encode (R98) -/

/-- Format R with its 11-bit opcode; shamt encodes as 0 (R71, R98). -/
def encodeR (code : BitVec 11) (rd rn rm : Reg) : InstrWord :=
  place code 21 ||| place rm 16 ||| place rn 5 ||| place rd 0

/-- Format I with its 10-bit opcode (R72). -/
def encodeI (code : BitVec 10) (rd rn : Reg) (imm : BitVec 12) : InstrWord :=
  place code 22 ||| place imm 10 ||| place rn 5 ||| place rd 0

/-- Format SHIFT with its 11-bit opcode; rm encodes as 0 (R77, R98). -/
def encodeShift (code : BitVec 11) (rd rn : Reg) (shamt : BitVec 6) : InstrWord :=
  place code 21 ||| place shamt 10 ||| place rn 5 ||| place rd 0

/-- Format D with its 11-bit opcode; op2 encodes as 0 (R73, R98). -/
def encodeD (code : BitVec 11) (rt rn : Reg) (offset : BitVec 9) : InstrWord :=
  place code 21 ||| place offset 12 ||| place rn 5 ||| place rt 0

/-- Format B with its 6-bit opcode (R74). -/
def encodeB (code : BitVec 6) (offset : BitVec 26) : InstrWord :=
  place code 26 ||| place offset 0

/-- Format CB with its 8-bit opcode (R75). -/
def encodeCB (code : BitVec 8) (rt : Reg) (offset : BitVec 19) : InstrWord :=
  place code 24 ||| place offset 5 ||| place rt 0

/-- Format IM with its 9-bit opcode (R76). -/
def encodeIM (code : BitVec 9) (rd : Reg) (field : BitVec 16) (hw : BitVec 2) : InstrWord :=
  place code 23 ||| place hw 21 ||| place field 5 ||| place rd 0

/-- The word of an instruction (R98), from the encodings of R101 to R181. -/
def encode : Instr → InstrWord
  | .add rd rn rm => encodeR 0b10001011000#11 rd rn rm
  | .sub rd rn rm => encodeR 0b11001011000#11 rd rn rm
  | .and rd rn rm => encodeR 0b10001010000#11 rd rn rm
  | .orr rd rn rm => encodeR 0b10101010000#11 rd rn rm
  | .eor rd rn rm => encodeR 0b11101010000#11 rd rn rm
  | .addi rd rn imm => encodeI 0b1001000100#10 rd rn imm
  | .subi rd rn imm => encodeI 0b1101000100#10 rd rn imm
  | .lsl rd rn shamt => encodeShift 0b11010011011#11 rd rn shamt
  | .lsr rd rn shamt => encodeShift 0b11010011010#11 rd rn shamt
  | .asr rd rn shamt => encodeShift 0b11010011100#11 rd rn shamt
  | .ldur rt rn offset => encodeD 0b11111000010#11 rt rn offset
  | .stur rt rn offset => encodeD 0b11111000000#11 rt rn offset
  | .b offset => encodeB 0b000101#6 offset
  | .cbz rt offset => encodeCB 0b10110100#8 rt offset
  | .cbnz rt offset => encodeCB 0b10110101#8 rt offset
  | .movz rd field hw => encodeIM 0b110100101#9 rd field hw
  | .movk rd field hw => encodeIM 0b111100101#9 rd field hw
  | .nop => 0b00000000000000000000000000000000#32
  | .brk => 0b11111110110111101111111111100111#32

/-- The bits of a word that hold a field no rule reads (R88): shamt in format R, rm in format SHIFT,
op2 in format D. -/
def Format.ignoredMask : Format → InstrWord
  | .r => 0x0000FC00#32
  | .shift => 0x001F0000#32
  | .d => 0x00000C00#32
  | _ => 0#32

/-! ### Input lines (R8, R27, R87) -/

/-- The bit a character of an input line stands for, if it is '0' or '1'. -/
def bitOfChar (c : Char) : Option Nat :=
  if c = '0' then some 0 else if c = '1' then some 1 else none

/-- The number a string of binary characters spells, most significant first, continuing from
`acc`. -/
def binaryFrom (acc : Nat) : List Char → Option Nat
  | [] => some acc
  | c :: cs =>
    match bitOfChar c with
    | some b => binaryFrom (2 * acc + b) cs
    | none => none

/-- The slot an input line stands for: a line of 32 characters '0' and '1' is a word whose bit 31 is
its first character, and every other line is `Invalid` (R8, R27, R87, D8). -/
def Slot.ofLine (line : List Char) : Slot :=
  if line.length = 32 then
    match binaryFrom 0 line with
    | some v => .word (BitVec.ofNat 32 v)
    | none => .invalid
  else .invalid

/-- The 32-character line of a word, bit 31 first (R8). -/
def lineOfWord (w : InstrWord) : List Char :=
  (List.range 32).map fun k => if w.getMsbD k then '1' else '0'

/-! ### The opcode table's numbering (host interface) -/

/-- The slot that holds an instruction whose bits are `w`, `nbits` of them counted and every higher
bit 0. DESIGN CHOICE (log 2): fewer than 32 counted bits are filled with zeros to a whole word, and bits
of `w` from `nbits` up are dropped, where R27, R70 and R87 know only 32-bit words and `Invalid`. This is
the host load's numbering alone; an input LINE of any other length than 32 is `Invalid`
(`Slot.ofLine`). More than 32 bits make no instruction of this hardware: that slot is `Invalid`
(R87). -/
def tableSlot (nbits w : Nat) : Slot :=
  if nbits ≤ 32 then .word (BitVec.ofNat 32 (w % 2 ^ nbits)) else .invalid

/-- The instruction the decoder reads from a word numbered as spec/opcode_table.json numbers its
bits; a width below 32 as in `tableSlot` (DESIGN CHOICE, log 2). -/
def decodeTableWord (nbits w : Nat) : Option Instr :=
  match tableSlot nbits w with
  | .word v =>
    match decode v with
    | .instr i => some i
    | .unknown => none
  | .invalid => none

end Sys2Proof
end

