-- ==== Sys2Proof/Machine/Flags.lean ====
section
/-!
DEFINITION. Flag computations. The hardware has no status flags and no condition codes: no
instruction sets or reads one (10_state.md R33). The one condition it computes is the ALU's output
`z`, which CBZ and CBNZ test within their own step and which is kept nowhere (70_reset_and_hazards.md
R243).
-/

namespace Sys2Proof.Machine

/-- `z = (qb = 0)`: all 64 bits compared with zero (R243, R152). -/
def zeroTest (v : Word) : Bool := v == 0#64

end Sys2Proof.Machine
end

