-- ==== Sys2Proof/Machine/Operands.lean ====
section
/-!
DEFINITION. The operand forms: every operand value that is built from an instruction's field
(30_encoding.md R79, 70_reset_and_hazards.md R241).
-/

namespace Sys2Proof.Machine

/-- `sext_N(v)`, sign extension to 64 bits (00_scope.md R10). -/
def sext {n : Nat} (v : BitVec n) : Word := v.signExtend 64

/-- `zext_N(v)`, zero extension to 64 bits (R10). -/
def zext {n : Nat} (v : BitVec n) : Word := v.setWidth 64

/-- `imm64`, the signed immediate of format I (R79, R120). -/
def immOperand (imm : BitVec 12) : Word := sext imm

/-- `doff64`, the unsigned, unscaled offset of format D (R79, R140). -/
def offsetOperand (offset : BitVec 9) : Word := zext offset

/-- `bdisp64` and `cbdisp64`: a branch offset sign-extended and multiplied by 4 (R79, R150). -/
def displacement {n : Nat} (offset : BitVec n) : Word := sext offset * 4#64

/-- `imm16` as an ALU input (R170). -/
def fieldOperand (field : BitVec 16) : Word := zext field

/-- `shamt` as an ALU input, 0 to 63 (R130). -/
def shamtOperand (shamt : BitVec 6) : Word := zext shamt

/-- `hw * 16`, the left-shift amount of format IM: 0, 16, 32 or 48 (R79, R170). -/
def hwShift (hw : BitVec 2) : Nat := hw.toNat * 16

end Sys2Proof.Machine
end

