-- ==== Sys2Proof/Machine/State.lean ====
section
/-!
DEFINITION. The architectural state (10_state.md), the reasons a step can stop, and the state after
reset (70_reset_and_hazards.md R230).
-/

namespace Sys2Proof.Machine

/-- The run state (10_state.md R30). Only `running` steps. -/
inductive RunState where
  /-- The core steps. -/
  | running
  /-- A BREAK was executed (R181). -/
  | halted
  /-- The pc reached the address one past the last slot: the clean end of input (R37). -/
  | exhausted
  /-- The pc names no slot and is not the end address (R37): a fault, no clean end (R203, U2). -/
  | fetchFault
  deriving DecidableEq, Repr

/-- The data memory: a finite partial map from 64-bit keys to 64-bit cells (R25), as the list of its
populated cells in rising order of their keys (log 3). An unlisted key is absent; a populated cell
may hold 0, since which cells are populated is state (R26, R35). `Memory.wf` in Machine/Ops.lean
says the form holds. -/
abbrev Memory := List (Key × Word)

/-- The whole architectural state (10_state.md section 1), with the step's parameters IMAGE and
ORR_MODE beside it as the plain data `cfg`, which no step changes (R27; log 1). -/
structure State where
  /-- The register file `x[0]` to `x[31]` (R20). -/
  x      : Vector Word 32
  /-- The program counter, an unsigned byte address (R28). -/
  pc     : Word
  /-- The data memory (R25). -/
  mem    : Memory
  /-- The run state (R30). -/
  run    : RunState
  /-- The count of executed instructions, unbounded (R31). -/
  icount : Nat
  /-- IMAGE and ORR_MODE (R7). -/
  cfg    : Config
  deriving DecidableEq, Repr

/-- The machine right after reset, with nothing preset (R230): registers 0, pc 96, no populated cell,
RUNNING, no instruction executed. IMAGE has no slot until the host fixes one (R233; log 2). -/
def State.reset : State :=
  { x := Vector.replicate 32 0#64
    pc := BitVec.ofNat 64 pcBase
    mem := []
    run := .running
    icount := 0
    cfg := Config.default }

/-- Why a step stops with a fault. -/
inductive Fault where
  /-- Raised by `step` in a state whose run state is FETCH_FAULT: the run ended in a fetch outside
  IMAGE and has no further step (R38). The spec asks for a fault here (R203, U2). Safe: the model
  stops where the spec has no step. -/
  | fetchFault
  deriving DecidableEq, Repr

/-- Why a step is refused. -/
inductive Refusal where
  /-- An instruction that has no meaning in the model; raised by no arm. Safe. -/
  | notModelled (mnemonic : String)
  /-- Raised by `step` in a state whose run state is HALTED, the program's own end: no further step
  exists (R38, R181). Safe: the spec has no step there. -/
  | halted
  /-- Raised by `step` in a state whose run state is EXHAUSTED, the clean end of input: no further
  step exists (R37, R38). Safe: the spec has no step there. -/
  | exhausted
  deriving DecidableEq, Repr

/-- The outcome of one step of this machine. -/
abbrev StepOutcome := Host.Outcome State Fault Refusal

end Sys2Proof.Machine
end

