-- ==== Sys2Proof/Machine/Ops.lean ====
section
/-!
DEFINITION. The named operations over registers, memory, the ALU, the pc and the image, which every
instruction's meaning is written over.

There is no operation that takes an exception or returns from one: the hardware raises none
(60_exceptions.md R200, R206, R207). What stands in its place is `skipSlot`, the one shared effect of
the three diagnostics (R201), and `endRun`, the end of a run at a fetch (R37).
-/

namespace Sys2Proof.Machine

/-! ### Registers (10_state.md R20 to R23) -/

/-- `x[i]`. Every index reads alike; register 31 is a plain register (R12, R21). -/
def State.readReg (s : State) (r : Reg) : Word := s.x[r.toNat]

/-- `x[i] <- v`. Every index writes alike (R12, R21). -/
def State.writeReg (s : State) (r : Reg) (v : Word) : State :=
  { s with x := s.x.set r.toNat v r.isLt }

/-! ### Data memory (20_memory.md R50 to R56) -/

/-- The cell a key names, if it is populated. -/
def Memory.lookup (m : Memory) (a : Key) : Option Word :=
  match m with
  | [] => none
  | (k, v) :: rest => if k = a then some v else Memory.lookup rest a

/-- `MemRead(a, 8)`: the cell's value, or 0 when there is no such cell (R25, R56). -/
def Memory.read (m : Memory) (a : Key) : Word := (m.lookup a).getD 0#64

/-- `MemWrite(a, 8, v)`: the cell is created if absent, even for `v = 0`, and overwritten if present
(R26, R55, R56). -/
def Memory.write (m : Memory) (a : Key) (v : Word) : Memory :=
  match m with
  | [] => [(a, v)]
  | (k, u) :: rest =>
    if k = a then (a, v) :: rest
    else if a < k then (a, v) :: (k, u) :: rest
    else (k, u) :: Memory.write rest a v

/-- The canonical form: keys strictly rising, so that equal maps are equal lists (log 3). -/
abbrev Memory.wf (m : Memory) : Prop := m.Pairwise fun c d => c.1 < d.1

/-- `MemWrite` on the machine's memory. -/
def State.writeMem (s : State) (a : Key) (v : Word) : State := { s with mem := s.mem.write a v }

/-- `ea = x[rn] + zext_9(offset)`, unscaled, wrapping in 64 bits (R52). -/
def State.effectiveAddress (s : State) (rn : Reg) (offset : BitVec 9) : Key :=
  s.readReg rn + offsetOperand offset

/-! ### The ALU (70_reset_and_hazards.md R243) -/

/-- The ALU's operations. -/
inductive AluOp where
  | add | sub | and | orr | eor | lsl | lsr | asr | movz | movk
  deriving DecidableEq, Repr

/-- `f(op, a, b)` of R243, with the shift code `hw` of format IM. Every operation is on 64 bits and
wraps (00_scope.md R11). -/
def alu (op : AluOp) (hw : BitVec 2) (a b : Word) : Word :=
  match op with
  | .add => a + b
  | .sub => a - b
  | .and => a &&& b
  | .orr => a ||| b
  | .eor => a ^^^ b
  | .lsl => a <<< (b.extractLsb' 0 6).toNat
  | .lsr => a >>> (b.extractLsb' 0 6).toNat
  | .asr => a.sshiftRight (b.extractLsb' 0 6).toNat
  | .movz => zext (b.extractLsb' 0 16) <<< hwShift hw
  | .movk => (a &&& ~~~(0xFFFF#64 <<< hwShift hw)) ||| (zext (b.extractLsb' 0 16) <<< hwShift hw)

/-! ### The pc and the ends of a step (10_state.md R29, R36) -/

/-- `pc + 4`, the default advance, wrapping (R29). -/
def State.nextPc (s : State) : Word := s.pc + BitVec.ofNat 64 pcStep

/-- `pc + disp`, from the branch's own address, wrapping (44_branch.md R150). -/
def State.branchTarget {n : Nat} (s : State) (offset : BitVec n) : Word := s.pc + displacement offset

/-- The end of an executed instruction's step: `icount <- icount + 1` and `pc <- next_pc` (R36). -/
def State.retire (s : State) (next : Word) : State := { s with pc := next, icount := s.icount + 1 }

/-- A skipped step: `pc <- pc + 4` and nothing else, no icount (R185 to R187). -/
def State.skipSlot (s : State) : State := { s with pc := s.nextPc }

/-- A step that ends at its fetch: run changes and nothing else (R37). -/
def State.endRun (s : State) (r : RunState) : State := { s with run := r }

/-! ### What the instruction formats do -/

/-- `x[rd] <- v`, and the step goes on at pc + 4: the whole effect of every instruction that writes a
register (R22, R36). `v` is computed from the state before the write (R23). -/
def State.result (s : State) (rd : Reg) (v : Word) : State := (s.writeReg rd v).retire s.nextPc

/-- Format R: `x[rd] <- f(op, x[rn], x[rm])` (40_r_format.md R100). -/
def State.aluReg (s : State) (op : AluOp) (rd rn rm : Reg) : State :=
  s.result rd (alu op 0#2 (s.readReg rn) (s.readReg rm))

/-- Format I: `x[rd] <- f(op, x[rn], sext_12(imm))` (41_i_format.md R120). -/
def State.aluImm (s : State) (op : AluOp) (rd rn : Reg) (imm : BitVec 12) : State :=
  s.result rd (alu op 0#2 (s.readReg rn) (immOperand imm))

/-- Format SHIFT: `x[rd] <- f(op, x[rn], shamt)` (42_shift.md R130). -/
def State.aluShift (s : State) (op : AluOp) (rd rn : Reg) (shamt : BitVec 6) : State :=
  s.result rd (alu op 0#2 (s.readReg rn) (shamtOperand shamt))

/-- Format IM: `x[rd] <- f(op, x[rd], field)` with the shift code (45_move_wide.md R170). -/
def State.aluWide (s : State) (op : AluOp) (rd : Reg) (field : BitVec 16) (hw : BitVec 2) : State :=
  s.result rd (alu op hw (s.readReg rd) (fieldOperand field))

/-- A branch that is taken or not: `next_pc` is the target or pc + 4 (44_branch.md R150). -/
def State.branchIf {n : Nat} (s : State) (taken : Bool) (offset : BitVec n) : State :=
  s.retire (if taken then s.branchTarget offset else s.nextPc)

/-! ### Fetch (10_state.md R27, R37) -/

/-- The index of the slot an address would name in a long enough image: `(pc - 96) / 4` when
`pc ≥ 96` and `(pc - 96) mod 4 = 0`. -/
def slotIndex (pc : Word) : Option Nat :=
  if pcBase ≤ pc.toNat ∧ (pc.toNat - pcBase) % pcStep = 0 then some ((pc.toNat - pcBase) / pcStep)
  else none

/-- What a fetch gives (R37). -/
inductive Fetched where
  | slot (v : Slot)
  /-- pc is 96 + 4N: input exhausted, the clean end. -/
  | exhausted
  /-- pc names no slot. -/
  | fetchFault
  deriving DecidableEq, Repr

/-- `fetch(pc)` on an image (R37). -/
def fetchAt (image : List Slot) (pc : Word) : Fetched :=
  match (slotIndex pc).bind (image[·]?) with
  | some v => .slot v
  | none => if pc.toNat = pcBase + pcStep * image.length then .exhausted else .fetchFault

/-- The fetch of a state's next step. -/
def State.fetch (s : State) : Fetched := fetchAt s.cfg.image s.pc

/-- The slot at index `k` of an image set to `v`; an image too short is filled with `Invalid` slots
up to it. Used to load a word from outside the machine (log 2). -/
def placeSlot (image : List Slot) (k : Nat) (v : Slot) : List Slot :=
  image.take k ++ List.replicate (k - image.length) .invalid ++ v :: image.drop (k + 1)

/-! ### Launch (70_reset_and_hazards.md R233) -/

/-- The state a run starts from: reset, the host's IMAGE and ORR_MODE, and then its presets INIT_REGS
and INIT_MEM, each applied in the order given (R24, R26, R230, R233; log 15). -/
def State.launch (cfg : Config) (initRegs : List (Reg × Word)) (initMem : List (Key × Word)) : State :=
  let s := initRegs.foldl (fun s p => s.writeReg p.1 p.2) { State.reset with cfg := cfg }
  initMem.foldl (fun s p => s.writeMem p.1 p.2) s

end Sys2Proof.Machine
end

