-- ==== Sys2Proof/Machine/Branch.lean ====
section
/-!
DEFINITION. Formats B and CB, control transfer: B, CBZ, CBNZ (44_branch.md R150 to R155). Targets are
relative to the branch's own address; no delay slot, no link register.
-/

namespace Sys2Proof.Machine

/-- B: `next_pc <- pc + sext_26(offset) * 4` (R151). -/
def execB (offset : BitVec 26) (s : State) : StepOutcome := .next (s.branchIf true offset)

/-- CBZ: taken when `x[rt] = 0` (R152). -/
def execCbz (rt : Reg) (offset : BitVec 19) (s : State) : StepOutcome :=
  .next (s.branchIf (zeroTest (s.readReg rt)) offset)

/-- CBNZ: taken when `x[rt] != 0` (R153). -/
def execCbnz (rt : Reg) (offset : BitVec 19) (s : State) : StepOutcome :=
  .next (s.branchIf (!zeroTest (s.readReg rt)) offset)

end Sys2Proof.Machine
end

