-- ==== Sys2Proof/Machine/DFormat.lean ====
section
/-!
DEFINITION. Format D, load and store of one 64-bit cell: LDUR, STUR (43_load_store.md R140 to R142).
No alignment check and no fault; the base register is never modified.
-/

namespace Sys2Proof.Machine

/-- LDUR: `x[rt] <- MemRead(x[rn] + zext_9(offset), 8)`; the cell is not created (R141). -/
def execLdur (rt rn : Reg) (offset : BitVec 9) (s : State) : StepOutcome :=
  .next (s.result rt (s.mem.read (s.effectiveAddress rn offset)))

/-- STUR: `MemWrite(x[rn] + zext_9(offset), 8, x[rt])`; the cell is created even for 0 (R142). -/
def execStur (rt rn : Reg) (offset : BitVec 9) (s : State) : StepOutcome :=
  .next ((s.writeMem (s.effectiveAddress rn offset) (s.readReg rt)).retire s.nextPc)

end Sys2Proof.Machine
end

