-- ==== Sys2Proof/Machine/IFormat.lean ====
section
/-!
DEFINITION. Format I, register-immediate arithmetic: ADDI, SUBI (41_i_format.md R120 to R122). The
immediate is signed (G6); overflow wraps (D10).
-/

namespace Sys2Proof.Machine

/-- ADDI: `x[rd] <- x[rn] + sext_12(imm)` (R121). -/
def execAddi (rd rn : Reg) (imm : BitVec 12) (s : State) : StepOutcome :=
  .next (s.aluImm .add rd rn imm)

/-- SUBI: `x[rd] <- x[rn] - sext_12(imm)` (R122). -/
def execSubi (rd rn : Reg) (imm : BitVec 12) (s : State) : StepOutcome :=
  .next (s.aluImm .sub rd rn imm)

end Sys2Proof.Machine
end

