-- ==== Sys2Proof/Machine/MoveWide.lean ====
section
/-!
DEFINITION. Format IM, move wide immediate: MOVZ, MOVK (45_move_wide.md R170 to R172).
-/

namespace Sys2Proof.Machine

/-- MOVZ: `x[rd] <- zext_16(field) << (hw * 16)`, the other 48 bits 0 (R171). -/
def execMovz (rd : Reg) (field : BitVec 16) (hw : BitVec 2) (s : State) : StepOutcome :=
  .next (s.aluWide .movz rd field hw)

/-- MOVK: the 16-bit window at `hw * 16` becomes the field, the other bits stay (R172). -/
def execMovk (rd : Reg) (field : BitVec 16) (hw : BitVec 2) (s : State) : StepOutcome :=
  .next (s.aluWide .movk rd field hw)

end Sys2Proof.Machine
end

