-- ==== Sys2Proof/Machine/NopBreak.lean ====
section
/-!
DEFINITION. NOP and BREAK, and the steps on an UNKNOWN word and on an `Invalid` slot
(46_nop_break_unknown.md R180 to R188).
-/

namespace Sys2Proof.Machine

/-- NOP: no register and no memory change; executed, so pc + 4 and icount + 1 (R180). -/
def execNop (s : State) : StepOutcome := .next (s.retire s.nextPc)

/-- BREAK: `run <- HALTED`; executed, so icount + 1, and the pc stays at the BREAK's own address
(R181). -/
def execBrk (s : State) : StepOutcome := .next ((s.retire s.pc).endRun .halted)

/-- The step on a word that decodes to UNKNOWN: skipped (R186). -/
def stepUnknown (s : State) : StepOutcome := .next s.skipSlot

/-- The step on an `Invalid` slot: not decoded, skipped (R185). -/
def stepInvalid (s : State) : StepOutcome := .next s.skipSlot

/-- The step whose fetch finds the end of IMAGE: EXHAUSTED and nothing else (R37). -/
def stepExhausted (s : State) : StepOutcome := .next (s.endRun .exhausted)

/-- The step whose fetch names no slot: FETCH_FAULT and nothing else (R37). -/
def stepFetchFault (s : State) : StepOutcome := .next (s.endRun .fetchFault)

end Sys2Proof.Machine
end

