-- ==== Sys2Proof/Machine/RFormat.lean ====
section
/-!
DEFINITION. Format R, register-register arithmetic and logical: ADD, SUB, AND, ORR, EOR
(40_r_format.md R100 to R105). None raises an exception or touches memory; overflow wraps (D10).
-/

namespace Sys2Proof.Machine

/-- ADD: `x[rd] <- x[rn] + x[rm]` (R101). -/
def execAdd (rd rn rm : Reg) (s : State) : StepOutcome := .next (s.aluReg .add rd rn rm)

/-- SUB: `x[rd] <- x[rn] - x[rm]` (R102). -/
def execSub (rd rn rm : Reg) (s : State) : StepOutcome := .next (s.aluReg .sub rd rn rm)

/-- AND: `x[rd] <- x[rn] & x[rm]` (R103). -/
def execAnd (rd rn rm : Reg) (s : State) : StepOutcome := .next (s.aluReg .and rd rn rm)

/-- ORR: `x[rd] <- x[rn] | x[rm]` when ORR_MODE is OR; a skipped step when it is NO_EFFECT (R104,
R187). -/
def execOrr (rd rn rm : Reg) (s : State) : StepOutcome :=
  match s.cfg.orrMode with
  | .or => .next (s.aluReg .orr rd rn rm)
  | .noEffect => .next s.skipSlot

/-- EOR: `x[rd] <- x[rn] ^ x[rm]` (R105). -/
def execEor (rd rn rm : Reg) (s : State) : StepOutcome := .next (s.aluReg .eor rd rn rm)

end Sys2Proof.Machine
end

