-- ==== Sys2Proof/Machine/ShiftFormat.lean ====
section
/-!
DEFINITION. Format SHIFT, shift by immediate: LSL, LSR, ASR (42_shift.md R130 to R133). The amount is
0 to 63, so no shift reaches the register width.
-/

namespace Sys2Proof.Machine

/-- LSL: zeros enter at bit 0 (R131). -/
def execLsl (rd rn : Reg) (shamt : BitVec 6) (s : State) : StepOutcome :=
  .next (s.aluShift .lsl rd rn shamt)

/-- LSR: zeros enter at bit 63 (R132). -/
def execLsr (rd rn : Reg) (shamt : BitVec 6) (s : State) : StepOutcome :=
  .next (s.aluShift .lsr rd rn shamt)

/-- ASR: copies of bit 63 enter from the top (R133). -/
def execAsr (rd rn : Reg) (shamt : BitVec 6) (s : State) : StepOutcome :=
  .next (s.aluShift .asr rd rn shamt)

end Sys2Proof.Machine
end

