-- ==== Sys2Proof/Machine/Dispatch.lean ====
section
/-!
DEFINITION. The one dispatch from a decoded instruction to its meaning: `execute(d)` of 10_state.md
R36 with the common step's pc and icount, one arm per instruction.
-/

namespace Sys2Proof.Machine

def exec (i : Instr) (s : State) : Host.Outcome State Fault Refusal :=
  match i with
  | .add rd rn rm => Sys2Proof.Machine.execAdd rd rn rm s
  | .sub rd rn rm => Sys2Proof.Machine.execSub rd rn rm s
  | .and rd rn rm => Sys2Proof.Machine.execAnd rd rn rm s
  | .orr rd rn rm => Sys2Proof.Machine.execOrr rd rn rm s
  | .eor rd rn rm => Sys2Proof.Machine.execEor rd rn rm s
  | .addi rd rn imm => Sys2Proof.Machine.execAddi rd rn imm s
  | .subi rd rn imm => Sys2Proof.Machine.execSubi rd rn imm s
  | .lsl rd rn shamt => Sys2Proof.Machine.execLsl rd rn shamt s
  | .lsr rd rn shamt => Sys2Proof.Machine.execLsr rd rn shamt s
  | .asr rd rn shamt => Sys2Proof.Machine.execAsr rd rn shamt s
  | .ldur rt rn offset => Sys2Proof.Machine.execLdur rt rn offset s
  | .stur rt rn offset => Sys2Proof.Machine.execStur rt rn offset s
  | .b offset => Sys2Proof.Machine.execB offset s
  | .cbz rt offset => Sys2Proof.Machine.execCbz rt offset s
  | .cbnz rt offset => Sys2Proof.Machine.execCbnz rt offset s
  | .movz rd field hw => Sys2Proof.Machine.execMovz rd field hw s
  | .movk rd field hw => Sys2Proof.Machine.execMovk rd field hw s
  | .nop => Sys2Proof.Machine.execNop s
  | .brk => Sys2Proof.Machine.execBrk s

end Sys2Proof.Machine
end

