-- ==== Sys2Proof/Machine/Step.lean ====
section
/-!
DEFINITION. One step of the machine (10_state.md R36 to R38), and the loading of one word where the
next fetch looks.
-/

namespace Sys2Proof.Machine

/-- One step (R36). Only RUNNING steps; a terminal state has no step (R38): FETCH_FAULT is a fault
(R203, U2), HALTED and EXHAUSTED are clean ends (log 5). `exec` does the whole of the instruction's
step, the pc and icount included. -/
def step (s : State) : Host.Outcome State Fault Refusal :=
  match s.run with
  | .running =>
    match s.fetch with
    | .slot (.word w) =>
      match decode w with
      | .instr i => exec i s
      | .unknown => stepUnknown s
    | .slot .invalid => stepInvalid s
    | .exhausted => stepExhausted s
    | .fetchFault => stepFetchFault s
  | .halted => .refused .halted
  | .exhausted => .refused .exhausted
  | .fetchFault => .fault .fetchFault

/-- The state with an instruction (numbered as spec/opcode_table.json numbers its bits) loaded where
the next step fetches: in the slot the pc names, an image too short being filled up to it with
`Invalid` slots, and the run state RUNNING. A pc that no slot can stand at is set to 96. Fewer than 32
bits are filled with zeros to a word, as in `tableSlot`. It stands for the host's loading of IMAGE
(R233); these are the model's choices (log 2). -/
def State.withFetchWord (s : State) (nbits w : Nat) : State :=
  let k := (slotIndex s.pc).getD 0
  { s with
    pc := if (slotIndex s.pc).isSome then s.pc else BitVec.ofNat 64 pcBase
    run := .running
    cfg := { s.cfg with image := placeSlot s.cfg.image k (tableSlot nbits w) } }

end Sys2Proof.Machine
end

