-- ==== Sys2Proof/Machine/Asm.lean ====
section
/-!
DEFINITION. The assembler syntax of 30_encoding.md R96 to R98: the line an instruction is written as,
the instruction a line stands for, and the line's text. There are no pseudo-instructions (R97).
-/

namespace Sys2Proof.Machine

/-- The line of an instruction (R96): immediates signed, B and CB offsets in instructions, the IM
shift in bits. -/
def disassemble : Instr → AsmLine
  | .add rd rn rm => .r .add rd.toNat rn.toNat rm.toNat
  | .sub rd rn rm => .r .sub rd.toNat rn.toNat rm.toNat
  | .and rd rn rm => .r .and rd.toNat rn.toNat rm.toNat
  | .orr rd rn rm => .r .orr rd.toNat rn.toNat rm.toNat
  | .eor rd rn rm => .r .eor rd.toNat rn.toNat rm.toNat
  | .addi rd rn imm => .i .addi rd.toNat rn.toNat imm.toInt
  | .subi rd rn imm => .i .subi rd.toNat rn.toNat imm.toInt
  | .lsl rd rn shamt => .shift .lsl rd.toNat rn.toNat shamt.toNat
  | .lsr rd rn shamt => .shift .lsr rd.toNat rn.toNat shamt.toNat
  | .asr rd rn shamt => .shift .asr rd.toNat rn.toNat shamt.toNat
  | .ldur rt rn offset => .d .ldur rt.toNat rn.toNat offset.toNat
  | .stur rt rn offset => .d .stur rt.toNat rn.toNat offset.toNat
  | .b offset => .b .b offset.toInt
  | .cbz rt offset => .cb .cbz rt.toNat offset.toInt
  | .cbnz rt offset => .cb .cbnz rt.toNat offset.toInt
  | .movz rd field hw => .im .movz rd.toNat field.toNat (hw.toNat * 16)
  | .movk rd field hw => .im .movk rd.toNat field.toNat (hw.toNat * 16)
  | .nop => .nop
  | .brk => .brk

/-- A register operand of a line as a field. -/
def regField (i : Nat) : Reg := BitVec.ofNat 5 i

/-- The instruction of a line whose operands are in range; each field is the operand modulo its
field's size (R98). -/
def assembleInRange : AsmLine → Option Instr
  | .r m rd rn rm =>
    match m with
    | .add => some (.add (regField rd) (regField rn) (regField rm))
    | .sub => some (.sub (regField rd) (regField rn) (regField rm))
    | .and => some (.and (regField rd) (regField rn) (regField rm))
    | .orr => some (.orr (regField rd) (regField rn) (regField rm))
    | .eor => some (.eor (regField rd) (regField rn) (regField rm))
    | _ => none
  | .i m rd rn imm =>
    match m with
    | .addi => some (.addi (regField rd) (regField rn) (BitVec.ofInt 12 imm))
    | .subi => some (.subi (regField rd) (regField rn) (BitVec.ofInt 12 imm))
    | _ => none
  | .shift m rd rn shamt =>
    match m with
    | .lsl => some (.lsl (regField rd) (regField rn) (BitVec.ofNat 6 shamt))
    | .lsr => some (.lsr (regField rd) (regField rn) (BitVec.ofNat 6 shamt))
    | .asr => some (.asr (regField rd) (regField rn) (BitVec.ofNat 6 shamt))
    | _ => none
  | .d m rt rn offset =>
    match m with
    | .ldur => some (.ldur (regField rt) (regField rn) (BitVec.ofNat 9 offset))
    | .stur => some (.stur (regField rt) (regField rn) (BitVec.ofNat 9 offset))
    | _ => none
  | .b m offset =>
    match m with
    | .b => some (.b (BitVec.ofInt 26 offset))
    | _ => none
  | .cb m rt offset =>
    match m with
    | .cbz => some (.cbz (regField rt) (BitVec.ofInt 19 offset))
    | .cbnz => some (.cbnz (regField rt) (BitVec.ofInt 19 offset))
    | _ => none
  | .im m rd field shift =>
    match m with
    | .movz => some (.movz (regField rd) (BitVec.ofNat 16 field) (BitVec.ofNat 2 (shift / 16)))
    | .movk => some (.movk (regField rd) (BitVec.ofNat 16 field) (BitVec.ofNat 2 (shift / 16)))
    | _ => none
  | .nop => some .nop
  | .brk => some .brk

/-- The instruction a line stands for: none when an operand is out of its range or the mnemonic has
another form (R96, R98). -/
def assemble (l : AsmLine) : Option Instr := if l.wellFormed then assembleInRange l else none

/-! ### The line's text (R96) -/

/-- A mnemonic as it is written. -/
def mnemonicText : Mnemonic → List Char
  | .add => ['A', 'D', 'D']
  | .sub => ['S', 'U', 'B']
  | .and => ['A', 'N', 'D']
  | .orr => ['O', 'R', 'R']
  | .eor => ['E', 'O', 'R']
  | .addi => ['A', 'D', 'D', 'I']
  | .subi => ['S', 'U', 'B', 'I']
  | .lsl => ['L', 'S', 'L']
  | .lsr => ['L', 'S', 'R']
  | .asr => ['A', 'S', 'R']
  | .ldur => ['L', 'D', 'U', 'R']
  | .stur => ['S', 'T', 'U', 'R']
  | .b => ['B']
  | .cbz => ['C', 'B', 'Z']
  | .cbnz => ['C', 'B', 'N', 'Z']
  | .movz => ['M', 'O', 'V', 'Z']
  | .movk => ['M', 'O', 'V', 'K']
  | .nop => ['N', 'O', 'P']
  | .brk => ['B', 'R', 'E', 'A', 'K']

/-- A number in decimal. -/
def decimalText (n : Nat) : List Char := Nat.toDigits 10 n

/-- An immediate: `#` and a decimal that may carry a sign (R96). -/
def immediateText (v : Int) : List Char :=
  if v < 0 then ['#', '-'] ++ decimalText v.natAbs else '#' :: decimalText v.natAbs

/-- A register, `R` and its decimal index (R96). -/
def registerText (i : Nat) : List Char := 'R' :: decimalText i

/-- Operands with a comma and a blank between two of them. -/
def operandsText (ops : List (List Char)) : List Char := [',', ' '].intercalate ops

/-- The text of a line (R96). -/
def lineText : AsmLine → List Char
  | .r m rd rn rm =>
    mnemonicText m ++ ' ' :: operandsText [registerText rd, registerText rn, registerText rm]
  | .i m rd rn imm =>
    mnemonicText m ++ ' ' :: operandsText [registerText rd, registerText rn, immediateText imm]
  | .shift m rd rn shamt =>
    mnemonicText m ++ ' ' :: operandsText [registerText rd, registerText rn, immediateText shamt]
  | .d m rt rn offset =>
    mnemonicText m ++ ' ' :: operandsText
      [registerText rt, '[' :: operandsText [registerText rn, immediateText offset] ++ [']']]
  | .b m offset => mnemonicText m ++ ' ' :: immediateText offset
  | .cb m rt offset =>
    mnemonicText m ++ ' ' :: operandsText [registerText rt, immediateText offset]
  | .im m rd field shift =>
    mnemonicText m ++ ' ' :: operandsText
      [registerText rd, immediateText field, ['L', 'S', 'L', ' '] ++ immediateText shift]
  | .nop => mnemonicText .nop
  | .brk => mnemonicText .brk

end Sys2Proof.Machine
end

