-- ==== Sys2Proof/Machine/Datapath.lean ====
section
/-!
DEFINITION. The block interfaces of 70_reset_and_hazards.md R240 to R246: decoder, field extractor,
register file ports, ALU, pc unit and data memory port, combinational within one step, the state
elements updating together at its end. It is the spec's hardware reading of the step (D17), written
from those rules and from the bits of the word, beside the per-instruction meanings; `step` does not
call it. An output that R240 to R245 call don't-care has some value here (log 17).
-/

namespace Sys2Proof.Machine

/-- The decoder's `fmt` and `mnem`: none is UNKNOWN (R240). -/
def decoderMnemonic (w : InstrWord) : Option Mnemonic := (classify w).map (·.mnemonic)

/-- The decoder's `fmt` output (R240). -/
def decoderFormat (w : InstrWord) : Format :=
  match classify w with
  | some row => row.format
  | none => .unknown

/-- The outputs of the field extractor (R241). -/
structure FieldWires where
  rd       : Reg
  rn       : Reg
  rm       : Reg
  rt       : Reg
  imm64    : Word
  doff64   : Word
  bdisp64  : Word
  cbdisp64 : Word
  imm16    : BitVec 16
  hw       : BitVec 2
  shamt    : BitVec 6
  deriving DecidableEq, Repr

/-- The field extractor (R241, R79). -/
def fieldWires (w : InstrWord) : FieldWires :=
  { rd := bits w 0 5, rn := bits w 5 5, rm := bits w 16 5, rt := bits w 0 5
    imm64 := sext (bits w 10 12), doff64 := zext (bits w 12 9)
    bdisp64 := sext (bits w 0 26) * 4#64, cbdisp64 := sext (bits w 5 19) * 4#64
    imm16 := bits w 5 16, hw := bits w 21 2, shamt := bits w 10 6 }

/-- Read port A's address `ra`: rd for MOVK, rn otherwise (R242). -/
def readAddressA (m : Mnemonic) (f : FieldWires) : Reg := if m = .movk then f.rd else f.rn

/-- Read port B's address `rb`: rm for format R, rt otherwise (R242). -/
def readAddressB (m : Mnemonic) (f : FieldWires) : Reg := if m.format = .r then f.rm else f.rt

/-- The ALU operation of a mnemonic (R243); ADD also forms the address of LDUR and STUR. -/
def aluOpOf : Mnemonic → AluOp
  | .add | .addi | .ldur | .stur => .add
  | .sub | .subi => .sub
  | .and => .and
  | .orr => .orr
  | .eor => .eor
  | .lsl => .lsl
  | .lsr => .lsr
  | .asr => .asr
  | .movz => .movz
  | .movk => .movk
  | .b | .cbz | .cbnz | .nop | .brk => .add

/-- The ALU's second input (the b column of R243). -/
def aluInputB (m : Mnemonic) (f : FieldWires) (qb : Word) : Word :=
  match m.format with
  | .i => f.imm64
  | .d => f.doff64
  | .shift => zext f.shamt
  | .im => zext f.imm16
  | _ => qb

/-- Whether a mnemonic is executed or skipped under an ORR_MODE (R15). -/
def isExecuted (mode : OrrMode) (m : Mnemonic) : Bool := !(m == .orr && mode == .noEffect)

/-- `we`: 1 exactly for the instructions that write a register in R22 (R242). -/
def writeEnable (mode : OrrMode) (m : Mnemonic) : Bool :=
  match m with
  | .stur | .b | .cbz | .cbnz | .nop | .brk => false
  | _ => isExecuted mode m

/-- `wa`: rt for LDUR, rd otherwise (R22, R242). -/
def writeAddress (m : Mnemonic) (f : FieldWires) : Reg := if m = .ldur then f.rt else f.rd

/-- `next_pc` (R244). -/
def pcUnit (m : Mnemonic) (f : FieldWires) (z : Bool) (pc : Word) : Word :=
  match m with
  | .b => pc + f.bdisp64
  | .cbz => if z then pc + f.cbdisp64 else pc + 4#64
  | .cbnz => if z then pc + 4#64 else pc + f.cbdisp64
  | .brk => pc
  | _ => pc + 4#64

/-- The signals of one step on a word that decodes (R242 to R245). -/
structure Signals where
  we     : Bool
  wa     : Reg
  wd     : Word
  dre    : Bool
  dwe    : Bool
  daddr  : Key
  dwdata : Word
  nextPc : Word
  deriving DecidableEq, Repr

/-- The combinational part of a step: reads see the values from before it (R242). -/
def signals (m : Mnemonic) (w : InstrWord) (s : State) : Signals :=
  let f := fieldWires w
  let qa := s.readReg (readAddressA m f)
  let qb := s.readReg (readAddressB m f)
  let y := alu (aluOpOf m) f.hw qa (aluInputB m f qb)
  { we := writeEnable s.cfg.orrMode m
    wa := writeAddress m f
    wd := if m = .ldur then s.mem.read y else y
    dre := m = .ldur
    dwe := m = .stur
    daddr := y
    dwdata := qb
    nextPc := pcUnit m f (zeroTest qb) s.pc }

/-- The state elements at the end of the step (R242, R244 to R246; R36 for icount and run). -/
def clockState (m : Mnemonic) (g : Signals) (s : State) : State :=
  { x := if g.we then (s.writeReg g.wa g.wd).x else s.x
    pc := g.nextPc
    mem := if g.dwe then s.mem.write g.daddr g.dwdata else s.mem
    run := if m = .brk then .halted else s.run
    icount := if isExecuted s.cfg.orrMode m then s.icount + 1 else s.icount
    cfg := s.cfg }

/-- One step of the datapath on a fetched slot. With `instr_valid = 0` and on UNKNOWN only the pc
unit's default advance happens (R185, R186, R240, R244). -/
def datapathStep (v : Slot) (s : State) : State :=
  match v with
  | .invalid => { s with pc := s.pc + 4#64 }
  | .word w =>
    match decoderMnemonic w with
    | none => { s with pc := s.pc + 4#64 }
    | some m => clockState m (signals m w s) s

end Sys2Proof.Machine
end

