-- ==== Sys2Proof/Machine/Output.lean ====
section
/-!
DEFINITION. What a step gives the host beside the state: the decode outcome or a diagnostic
(10_state.md R32, 60_exceptions.md R201, R202, 70_reset_and_hazards.md R246), and the Trace Emitter's
snapshot after an executed instruction (60_exceptions.md R213). No step reads either, so neither is
state: both are functions of the state the step starts from (log 6). The text of a diagnostic, of a
disassembly line and of a trace row is out of scope (00_scope.md R5).
-/

namespace Sys2Proof.Machine

/-- The three kinds of diagnostic (R201). -/
inductive DiagKind where
  | malformedInput | unknownOpcode | unrecognizedDiscriminator
  deriving DecidableEq, Repr

/-- The code of a kind (R201, D23). -/
def DiagKind.code : DiagKind → Nat
  | .malformedInput => 1
  | .unknownOpcode => 2
  | .unrecognizedDiscriminator => 3

/-- The output of one step (R32). -/
inductive StepOutput where
  /-- The Decoded Instruction: format tag, mnemonic and ordered fields (R79, R80). -/
  | decoded (fmt : Format) (mnem : Mnemonic) (fields : List Field)
  /-- `diag K`: the kind, the slot's address, and for kinds 2 and 3 the word (R202). -/
  | diag (kind : DiagKind) (addr : Word) (word : Option InstrWord)
  deriving DecidableEq, Repr

/-- The output of a step on a word (R36, R186, R187). -/
def outputOfWord (s : State) (w : InstrWord) : StepOutput :=
  match decode w with
  | .unknown => .diag .unknownOpcode s.pc (some w)
  | .instr i =>
    if i.mnemonic = .orr ∧ s.cfg.orrMode = .noEffect then
      .diag .unrecognizedDiscriminator s.pc (some w)
    else .decoded i.mnemonic.format i.mnemonic (extractFields i.mnemonic.format w)

/-- The output of the step from a state: none for a step that ends at its fetch and for a state that
has no step. -/
def output (s : State) : Option StepOutput :=
  match s.run, s.fetch with
  | .running, .slot (.word w) => some (outputOfWord s w)
  | .running, .slot .invalid => some (.diag .malformedInput s.pc none)
  | _, _ => none

/-- The Trace Emitter's snapshot (R213): "cycle number, instruction address, mnemonic, all 32
register values ..., and all populated memory cells". -/
structure Snapshot where
  cycle     : Nat
  address   : Word
  mnemonic  : Mnemonic
  registers : Vector Word 32
  cells     : Memory
  deriving DecidableEq, Repr

/-- The snapshot that follows the step from a state: a pure read of the state after it, and none for
a skipped step (R186, R213). The label is icount after the step, so the first is 1 (R31). -/
def traceStep (s : State) : Option Snapshot :=
  match output s, step s with
  | some (.decoded _ m _), .next t =>
    some { cycle := t.icount, address := s.pc, mnemonic := m, registers := t.x, cells := t.mem }
  | _, _ => none

end Sys2Proof.Machine
end

