-- ==== Sys2Proof/Safety.lean ====
section
/-!
DEFINITION. The terms claims are stated in: what a step leaves unchanged, what counts as a clean end,
the invariant every step keeps, and runs of many steps.
-/

namespace Sys2Proof.Machine

/-! ### Frames -/

/-- Every register holds the same value. -/
def SameRegs (s t : State) : Prop := ∀ r : Reg, t.readReg r = s.readReg r

/-- Every register but `rd` holds the same value. -/
def SameRegsBut (rd : Reg) (s t : State) : Prop := ∀ r : Reg, r ≠ rd → t.readReg r = s.readReg r

/-- Every data cell is the same, populated or not. -/
def SameCells (s t : State) : Prop := ∀ a : Key, t.mem.lookup a = s.mem.lookup a

/-- Every data cell but the one at `a` is the same, populated or not. -/
def SameCellsBut (a : Key) (s t : State) : Prop := ∀ b : Key, b ≠ a → t.mem.lookup b = s.mem.lookup b

/-- The rest of an executed instruction that is not BREAK (R36): the pc becomes `next`, icount goes up
by one, and run, IMAGE and ORR_MODE stay. -/
def Retired (next : Word) (s t : State) : Prop :=
  t.pc = next ∧ t.icount = s.icount + 1 ∧ t.run = s.run ∧ t.cfg = s.cfg

/-- An instruction that writes one register and goes on at pc + 4 (R22, R36): `rd` holds `v`, and
nothing else changes. -/
def RegisterResult (rd : Reg) (v : Word) (s t : State) : Prop :=
  t.readReg rd = v ∧ SameRegsBut rd s t ∧ SameCells s t ∧ Retired (s.pc + 4#64) s t

/-- A skipped step (R15): only the pc changes, by 4. -/
def Skipped (s t : State) : Prop :=
  t.pc = s.pc + 4#64 ∧ SameRegs s t ∧ SameCells s t ∧ t.icount = s.icount ∧ t.run = s.run ∧
    t.cfg = s.cfg

/-- A branch's step (R150): the pc becomes `next`, and no register and no cell changes. -/
def Branched (next : Word) (s t : State) : Prop := SameRegs s t ∧ SameCells s t ∧ Retired next s t

/-! ### What the next step is -/

/-- The next step decodes and runs this instruction. -/
def NextInstr (s : State) (i : Instr) : Prop :=
  ∃ w, s.run = .running ∧ s.fetch = .slot (.word w) ∧ decode w = .instr i

/-- The register an instruction writes, if it writes one (R22; ORR only when ORR_MODE is OR). -/
def destReg (mode : OrrMode) : Instr → Option Reg
  | .add rd _ _ => some rd
  | .sub rd _ _ => some rd
  | .and rd _ _ => some rd
  | .orr rd _ _ => if mode = .or then some rd else none
  | .eor rd _ _ => some rd
  | .addi rd _ _ => some rd
  | .subi rd _ _ => some rd
  | .lsl rd _ _ => some rd
  | .lsr rd _ _ => some rd
  | .asr rd _ _ => some rd
  | .ldur rt _ _ => some rt
  | .stur _ _ _ => none
  | .b _ => none
  | .cbz _ _ => none
  | .cbnz _ _ => none
  | .movz rd _ _ => some rd
  | .movk rd _ _ => some rd
  | .nop => none
  | .brk => none

/-- The registers an instruction reads (R22). -/
def sourceRegs (mode : OrrMode) : Instr → List Reg
  | .add _ rn rm => [rn, rm]
  | .sub _ rn rm => [rn, rm]
  | .and _ rn rm => [rn, rm]
  | .orr _ rn rm => if mode = .or then [rn, rm] else []
  | .eor _ rn rm => [rn, rm]
  | .addi _ rn _ => [rn]
  | .subi _ rn _ => [rn]
  | .lsl _ rn _ => [rn]
  | .lsr _ rn _ => [rn]
  | .asr _ rn _ => [rn]
  | .ldur _ rn _ => [rn]
  | .stur rt rn _ => [rn, rt]
  | .b _ => []
  | .cbz rt _ => [rt]
  | .cbnz rt _ => [rt]
  | .movz _ _ _ => []
  | .movk rd _ _ => [rd]
  | .nop => []
  | .brk => []

/-- The cell an instruction stores to and the value it stores (R142). -/
def storeOf (i : Instr) (s : State) : Option (Key × Word) :=
  match i with
  | .stur rt rn offset => some (s.effectiveAddress rn offset, s.readReg rt)
  | _ => none

/-! ### What an instruction's rule computes from the registers

The rules of files 40 to 46 as equations on values, apart from the meanings: claims about two
instructions in a row are stated in these terms. -/

/-- The registers with `v` in `r`. -/
def withReg (x : Reg → Word) (r : Reg) (v : Word) : Reg → Word := fun q => if q = r then v else x q

/-- The register an instruction's rule writes, and the value it gives it (R101 to R105, R121, R122,
R131 to R133, R141, R171, R172; ORR only when ORR_MODE is OR). -/
def resultOf (mode : OrrMode) (x : Reg → Word) (m : Memory) : Instr → Option (Reg × Word)
  | .add rd rn rm => some (rd, x rn + x rm)
  | .sub rd rn rm => some (rd, x rn - x rm)
  | .and rd rn rm => some (rd, x rn &&& x rm)
  | .orr rd rn rm => if mode = .or then some (rd, x rn ||| x rm) else none
  | .eor rd rn rm => some (rd, x rn ^^^ x rm)
  | .addi rd rn imm => some (rd, x rn + imm.signExtend 64)
  | .subi rd rn imm => some (rd, x rn - imm.signExtend 64)
  | .lsl rd rn shamt => some (rd, x rn <<< shamt.toNat)
  | .lsr rd rn shamt => some (rd, x rn >>> shamt.toNat)
  | .asr rd rn shamt => some (rd, (x rn).sshiftRight shamt.toNat)
  | .ldur rt rn offset => some (rt, (m.lookup (x rn + offset.setWidth 64)).getD 0#64)
  | .stur _ _ _ => none
  | .b _ => none
  | .cbz _ _ => none
  | .cbnz _ _ => none
  | .movz rd field hw => some (rd, field.setWidth 64 <<< (hw.toNat * 16))
  | .movk rd field hw => some (rd, (x rd &&& ~~~(0xFFFF#64 <<< (hw.toNat * 16))) |||
      field.setWidth 64 <<< (hw.toNat * 16))
  | .nop => none
  | .brk => none

/-- The cell an instruction's rule stores to, and the value it stores (R142). -/
def storeFrom (x : Reg → Word) : Instr → Option (Key × Word)
  | .stur rt rn offset => some (x rn + offset.setWidth 64, x rt)
  | _ => none

/-- The pc an executed instruction at `pc` leaves (R29, R150 to R153, R181). -/
def pcFrom (x : Reg → Word) (pc : Word) : Instr → Word
  | .b offset => pc + offset.signExtend 64 * 4#64
  | .cbz rt offset => if x rt = 0#64 then pc + offset.signExtend 64 * 4#64 else pc + 4#64
  | .cbnz rt offset => if x rt = 0#64 then pc + 4#64 else pc + offset.signExtend 64 * 4#64
  | .brk => pc
  | _ => pc + 4#64

/-- A typed field that is no signed number: its value is its unsigned bits (R79). -/
def unsignedField {n : Nat} (name : FieldName) (kind : FieldKind) (v : BitVec n) : Field :=
  { name := name, kind := kind, width := n, raw := v.toNat, value := v.toNat }

/-- The typed fields of a Decoded Instruction, from the operands of the instruction by the table of
R79; a field that R88 ignores shows the word's bits. -/
def typedFields (w : InstrWord) : Instr → List Field
  | .add rd rn rm => rFields rd rn rm
  | .sub rd rn rm => rFields rd rn rm
  | .and rd rn rm => rFields rd rn rm
  | .orr rd rn rm => rFields rd rn rm
  | .eor rd rn rm => rFields rd rn rm
  | .addi rd rn imm => iFields rd rn imm
  | .subi rd rn imm => iFields rd rn imm
  | .lsl rd rn shamt => shiftFields rd rn shamt
  | .lsr rd rn shamt => shiftFields rd rn shamt
  | .asr rd rn shamt => shiftFields rd rn shamt
  | .ldur rt rn offset => dFields rt rn offset
  | .stur rt rn offset => dFields rt rn offset
  | .b offset => [displacementField offset]
  | .cbz rt offset => [displacementField offset, unsignedField .rt .registerIndex rt]
  | .cbnz rt offset => [displacementField offset, unsignedField .rt .registerIndex rt]
  | .movz rd field hw => imFields rd field hw
  | .movk rd field hw => imFields rd field hw
  | .nop => []
  | .brk => []
where
  rFields (rd rn rm : Reg) : List Field :=
    [unsignedField .rm .registerIndex rm, unsignedField .shamt .ignored (w.extractLsb' 10 6),
      unsignedField .rn .registerIndex rn, unsignedField .rd .registerIndex rd]
  iFields (rd rn : Reg) (imm : BitVec 12) : List Field :=
    [{ name := .imm, kind := .signedImmediate, width := 12, raw := imm.toNat, value := imm.toInt },
      unsignedField .rn .registerIndex rn, unsignedField .rd .registerIndex rd]
  shiftFields (rd rn : Reg) (shamt : BitVec 6) : List Field :=
    [unsignedField .rm .ignored (w.extractLsb' 16 5), unsignedField .shamt .unsignedShiftAmount shamt,
      unsignedField .rn .registerIndex rn, unsignedField .rd .registerIndex rd]
  dFields (rt rn : Reg) (offset : BitVec 9) : List Field :=
    [unsignedField .offset .unsignedByteOffset offset, unsignedField .op2 .ignored (w.extractLsb' 10 2),
      unsignedField .rn .registerIndex rn, unsignedField .rt .registerIndex rt]
  imFields (rd : Reg) (field : BitVec 16) (hw : BitVec 2) : List Field :=
    [unsignedField .hw .unsignedShiftCode hw, unsignedField .field .unsignedImmediate field,
      unsignedField .rd .registerIndex rd]
  displacementField {n : Nat} (offset : BitVec n) : Field :=
    { name := .offset, kind := .signedPcDisplacement, width := n, raw := offset.toNat,
      value := offset.toInt * 4 }

/-- The store the next step performs, if it performs one. -/
def stepStore (s : State) : Option (Key × Word) :=
  match s.run, s.fetch with
  | .running, .slot (.word w) =>
    match decode w with
    | .instr i => storeOf i s
    | .unknown => none
  | _, _ => none

/-! ### Ends of a run (70_reset_and_hazards.md R237) -/

/-- The run ended cleanly: BREAK, or the end of input. FETCH_FAULT is no clean end (R203, U2). -/
def CleanEnd (s : State) : Prop := s.run = .halted ∨ s.run = .exhausted

/-- The run ended in a fetch outside IMAGE. -/
def FaultedEnd (s : State) : Prop := s.run = .fetchFault

/-- What every step keeps: the memory has its canonical form, the pc is a multiple of 4 (R29), and an
ended run stands at what ended it: HALTED at the BREAK word (R181), EXHAUSTED at the end address,
FETCH_FAULT at a pc that names no slot (R37). -/
def Inv (s : State) : Prop :=
  s.mem.wf ∧ s.pc.toNat % 4 = 0 ∧
  (s.run = .halted → s.fetch = .slot (.word 0xFEDEFFE7#32)) ∧
  (s.run = .exhausted → s.fetch = .exhausted) ∧
  (s.run = .fetchFault → s.fetch = .fetchFault)

/-- Two states no program can tell apart (10_state.md R35): equal but for icount and for which cells
holding 0 are populated. -/
def Indistinguishable (s t : State) : Prop :=
  s.x = t.x ∧ s.pc = t.pc ∧ s.run = t.run ∧ s.cfg = t.cfg ∧ ∀ a, s.mem.read a = t.mem.read a

/-! ### Runs -/

/-- `k` steps, stopping at the first state that has none. -/
def runSteps : Nat → State → StepOutcome
  | 0, s => .next s
  | k + 1, s =>
    match step s with
    | .next t => runSteps k t
    | .fault f => .fault f
    | .refused r => .refused r

/-- The value of the latest store to `a` among the next `k` steps, if there is one. -/
def latestStore (a : Key) : Nat → State → Option Word
  | 0, _ => none
  | k + 1, s =>
    match step s with
    | .next t =>
      (latestStore a k t).or ((stepStore s).bind fun p => if p.1 = a then some p.2 else none)
    | _ => none

/-- 1 for the output of an executed instruction, 0 for a diagnostic and for no output (R15, R32). -/
def executedCount : Option StepOutput → Nat
  | some (.decoded _ _ _) => 1
  | _ => 0

/-- How many of the next `k` steps are executed instructions, by what they give the host (R15,
R32). -/
def executedSteps : Nat → State → Nat
  | 0, _ => 0
  | k + 1, s =>
    match step s with
    | .next t => executedCount (output s) + executedSteps k t
    | _ => 0

end Sys2Proof.Machine
end

