-- ==== Sys2Proof/Certificates/Slice0/Obligations.lean ====
section
/-!
DEFINITION. The statements for the provers. Each docstring names the rule of spec/ it formalises; a
clause that is a decision of the spec's own (D<n>) or a choice of the model's (log <n>) is called so.
-/

open Sys2Proof Sys2Proof.Machine

/-! ### Encoding and decode (30_encoding.md) -/

/-- R98 (an inference of the spec's): encoding an instruction and decoding the word gives the
instruction back, for every instruction and every value of every operand. -/
def Obligations.DecodeOfEncodeIsTheInstruction : Prop :=
  ∀ i : Instr, decode (encode i) = .instr i

/-- R88, R98 (decisions D5, D20): the word of a decoded instruction is the word it was decoded from
with the ignored fields at 0; no other bit is dropped. -/
def Obligations.EncodeOfDecodeClearsOnlyIgnoredBits : Prop :=
  ∀ (w : InstrWord) (i : Instr), decode w = .instr i →
    encode i = w &&& ~~~i.mnemonic.format.ignoredMask

/-- R88 (decisions D5, D20): the ignored fields "can hold any value, and the value never changes the
decode". -/
def Obligations.IgnoredBitsNeverChangeTheDecode : Prop :=
  ∀ (w v : InstrWord) (i : Instr), decode w = .instr i →
    decode ((w &&& ~~~i.mnemonic.format.ignoredMask) ||| (v &&& i.mnemonic.format.ignoredMask)) = .instr i

/-- R81 (an inference of the spec's): at most one row of the opcode map matches a word, so the order
in which decode tries the rows does not matter. -/
def Obligations.AtMostOneRowMatchesAWord : Prop :=
  ∀ (w : InstrWord) (r q : OpcodeRow), r ∈ opcodeMap → q ∈ opcodeMap →
    r.matches w = true → q.matches w = true → r = q

/-- R80: decode tries the two whole-word rows first and then, in order, the rows with fewer than 32
leading bits, each by its leading bits; a word that none matches is UNKNOWN. -/
def Obligations.DecodeFollowsTheClassifier : Prop :=
  ∀ w : InstrWord, decode w =
    if w = 0x00000000#32 then .instr .nop
    else if w = 0xFEDEFFE7#32 then .instr .brk
    else match leadingBitRows.find? (fun r => w.toNat / 2 ^ (32 - r.length) == r.code) with
      | some r => .instr (instrOf r.mnemonic w)
      | none => .unknown

/-- R84 and R85 (the NOP word: decision D2; that 0xFEDEFFE6 is UNKNOWN: an inference of the spec's):
NOP and BREAK are single words; a nonzero word whose top six bits are 0 is UNKNOWN, and so is
0xFEDEFFE6. -/
def Obligations.NopAndBreakAreSingleWords : Prop :=
  (∀ w, decode w = .instr .nop ↔ w = 0x00000000#32) ∧
  (∀ w, decode w = .instr .brk ↔ w = 0xFEDEFFE7#32) ∧
  (∀ w : InstrWord, w.toNat / 2 ^ 26 = 0 → w ≠ 0#32 → decode w = .unknown) ∧
  decode 0xFEDEFFE6#32 = .unknown

/-- R71 to R77, R79, R83 (patterns: decision D1): a word that matches a row's match and mask decodes
to that row's mnemonic, and each operand is the number at its bit positions, whatever the ignored
fields hold. -/
def Obligations.DecodeReadsEachFieldAtItsBits : Prop :=
  (∀ p ∈ [(Instr.add, 0x8B000000#32), (Instr.sub, 0xCB000000#32), (Instr.and, 0x8A000000#32),
      (Instr.orr, 0xAA000000#32), (Instr.eor, 0xEA000000#32)],
    ∀ w : InstrWord, w &&& 0xFFE00000#32 = p.2 → ∃ rd rn rm, decode w = .instr (p.1 rd rn rm) ∧
      rd.toNat = w.toNat % 2 ^ 5 ∧ rn.toNat = w.toNat / 2 ^ 5 % 2 ^ 5 ∧
      rm.toNat = w.toNat / 2 ^ 16 % 2 ^ 5) ∧
  (∀ p ∈ [(Instr.addi, 0x91000000#32), (Instr.subi, 0xD1000000#32)],
    ∀ w : InstrWord, w &&& 0xFFC00000#32 = p.2 → ∃ rd rn imm, decode w = .instr (p.1 rd rn imm) ∧
      rd.toNat = w.toNat % 2 ^ 5 ∧ rn.toNat = w.toNat / 2 ^ 5 % 2 ^ 5 ∧
      imm.toNat = w.toNat / 2 ^ 10 % 2 ^ 12) ∧
  (∀ p ∈ [(Instr.lsl, 0xD3600000#32), (Instr.lsr, 0xD3400000#32), (Instr.asr, 0xD3800000#32)],
    ∀ w : InstrWord, w &&& 0xFFE00000#32 = p.2 → ∃ rd rn shamt, decode w = .instr (p.1 rd rn shamt) ∧
      rd.toNat = w.toNat % 2 ^ 5 ∧ rn.toNat = w.toNat / 2 ^ 5 % 2 ^ 5 ∧
      shamt.toNat = w.toNat / 2 ^ 10 % 2 ^ 6) ∧
  (∀ p ∈ [(Instr.ldur, 0xF8400000#32), (Instr.stur, 0xF8000000#32)],
    ∀ w : InstrWord, w &&& 0xFFE00000#32 = p.2 → ∃ rt rn off, decode w = .instr (p.1 rt rn off) ∧
      rt.toNat = w.toNat % 2 ^ 5 ∧ rn.toNat = w.toNat / 2 ^ 5 % 2 ^ 5 ∧
      off.toNat = w.toNat / 2 ^ 12 % 2 ^ 9) ∧
  (∀ w : InstrWord, w &&& 0xFC000000#32 = 0x14000000#32 → ∃ off, decode w = .instr (.b off) ∧
      off.toNat = w.toNat % 2 ^ 26) ∧
  (∀ p ∈ [(Instr.cbz, 0xB4000000#32), (Instr.cbnz, 0xB5000000#32)],
    ∀ w : InstrWord, w &&& 0xFF000000#32 = p.2 → ∃ rt off, decode w = .instr (p.1 rt off) ∧
      rt.toNat = w.toNat % 2 ^ 5 ∧ off.toNat = w.toNat / 2 ^ 5 % 2 ^ 19) ∧
  (∀ p ∈ [(Instr.movz, 0xD2800000#32), (Instr.movk, 0xF2800000#32)],
    ∀ w : InstrWord, w &&& 0xFF800000#32 = p.2 → ∃ rd field hw, decode w = .instr (p.1 rd field hw) ∧
      rd.toNat = w.toNat % 2 ^ 5 ∧ field.toNat = w.toNat / 2 ^ 5 % 2 ^ 16 ∧
      hw.toNat = w.toNat / 2 ^ 21 % 2 ^ 2)

/-- The 22 decode vectors VX1 to VX22 of 95_test_vectors.md (derived from the rules, as that file
says) and the nine example words of R96 (patterns: decisions D1 and D2) decode as they are written:
each to its instruction with its operands, or to UNKNOWN. -/
def Obligations.WrittenOutWordsDecode : Prop :=
  (∀ p ∈ [(0x00000000#32, Decoded.instr .nop), (0x00000001#32, .unknown), (0xFEDEFFE7#32, .instr .brk),
      (0xFEDEFFE6#32, .unknown), (0xFFFFFFFF#32, .unknown), (0x14000000#32, .instr (.b 0)),
      (0x17FFFFFF#32, .instr (.b (BitVec.ofInt 26 (-1)))), (0x8B00FC00#32, .instr (.add 0 0 0)),
      (0x8B010002#32, .instr (.add 2 0 1)), (0x91400000#32, .unknown),
      (0x91200001#32, .instr (.addi 1 0 (BitVec.ofInt 12 (-2048)))), (0xD1000000#32, .instr (.subi 0 0 0)),
      (0xD3400000#32, .instr (.lsr 0 0 0)), (0xD3A00000#32, .unknown), (0xF8400C00#32, .instr (.ldur 0 0 0)),
      (0xF8200000#32, .unknown), (0xB4FFFFFF#32, .instr (.cbz 31 (BitVec.ofInt 19 (-1)))),
      (0xB5000000#32, .instr (.cbnz 0 0)), (0xD2E00000#32, .instr (.movz 0 0 3)),
      (0xF2800000#32, .instr (.movk 0 0 0)), (0x10000000#32, .unknown), (0xAA1F03FF#32, .instr (.orr 31 31 31))],
    decode p.1 = p.2) ∧
  (∀ p ∈ [(0x8B010002#32, Instr.add 2 0 1), (0x91200001#32, .addi 1 0 (BitVec.ofInt 12 (-2048))),
      (0xD3601023#32, .lsl 3 1 4), (0xF8008041#32, .stur 1 2 8), (0x14000002#32, .b 2),
      (0xB4FFFFA1#32, .cbz 1 (BitVec.ofInt 19 (-3))), (0xD2A24681#32, .movz 1 4660 1),
      (0x00000000#32, .nop), (0xFEDEFFE7#32, .brk)],
    decode p.1 = .instr p.2)

/-- R71 to R78: a format's fields have "no overlap, no gaps, sums to 32": the widths sum to 32 and the
fields at their positions make up the word. -/
def Obligations.FieldsPartitionTheWord : Prop :=
  ∀ (fmt : Format) (w : InstrWord), fmt ≠ .unknown →
    (fmt.layout.map (·.width)).sum = 32 ∧
    (fmt.layout.map fun f => (bits w f.lo f.width).toNat * 2 ^ f.lo).sum = w.toNat

/-- R10: sign extension of an N-bit field is the value, less 2^N when its top bit is 1; zero extension
is the value. -/
def Obligations.SignAndZeroExtensionValues : Prop :=
  ∀ (n : Nat) (v : BitVec n), n ≤ 64 →
    (sext v).toInt = (if v.msb then (v.toNat : Int) - 2 ^ n else v.toNat) ∧
    (zext v).toNat = v.toNat

/-- R79 (the exactness of the multiplication by 4 is an inference of the spec's): the operand values
and their ranges; the shift of format IM is 16 times hw. -/
def Obligations.OperandValuesAndRanges : Prop :=
  (∀ imm : BitVec 12, (immOperand imm).toInt = imm.toInt ∧ -2048 ≤ (immOperand imm).toInt ∧
    (immOperand imm).toInt ≤ 2047) ∧
  (∀ off : BitVec 9, (offsetOperand off).toNat = off.toNat ∧ (offsetOperand off).toNat ≤ 511) ∧
  (∀ off : BitVec 26, (displacement off).toInt = off.toInt * 4 ∧
    -2 ^ 27 ≤ (displacement off).toInt ∧ (displacement off).toInt ≤ 2 ^ 27 - 4) ∧
  (∀ off : BitVec 19, (displacement off).toInt = off.toInt * 4 ∧
    -2 ^ 20 ≤ (displacement off).toInt ∧ (displacement off).toInt ≤ 2 ^ 20 - 4) ∧
  (∀ field : BitVec 16, (fieldOperand field).toNat = field.toNat) ∧
  (∀ shamt : BitVec 6, (shamtOperand shamt).toNat = shamt.toNat) ∧
  (∀ hw : BitVec 2, hwShift hw = 16 * hw.toNat ∧ hwShift hw ∈ [0, 16, 32, 48])

/-- R96, R98 (the SHIFT and IM syntax: decision D21): every instruction has a well-formed line that
stands for it, a line that stands for an instruction is that instruction's line, and exactly the
lines with every operand in range stand for one. That a line with an operand out of range, or with a
mnemonic of another form, stands for no instruction is the model's choice, log 18. -/
def Obligations.AssembleAndDisassembleAgree : Prop :=
  (∀ i : Instr, (disassemble i).wellFormed = true ∧ assemble (disassemble i) = some i) ∧
  (∀ (l : AsmLine) (i : Instr), assemble l = some i → disassemble i = l) ∧
  (∀ l : AsmLine, (assemble l).isSome = l.wellFormed)

/-- R8, R27, R87 (that the first character is bit 31: an inference of the spec's; a non-binary
character: decision D8): exactly the lines of 32 binary characters are words, the first character
being bit 31; every other line is Invalid. -/
def Obligations.OnlyBinaryLinesOf32AreWords : Prop :=
  (∀ w : InstrWord, Slot.ofLine (lineOfWord w) = .word w) ∧
  (∀ (line : List Char) (w : InstrWord), Slot.ofLine line = .word w → line = lineOfWord w) ∧
  (∀ line : List Char, line.length ≠ 32 → Slot.ofLine line = .invalid) ∧
  (∀ (line : List Char) (c : Char), c ∈ line → c ≠ '0' → c ≠ '1' → Slot.ofLine line = .invalid)

/-! ### The step (10_state.md R36 to R38) -/

/-- R36: when the pc names a slot whose word decodes to an instruction, a RUNNING step is that
instruction's meaning. That exec is the whole step, pc and icount included, so that the step adds
nothing around it, is the model's choice, log 19 (R13, R36 write the two in the common step). -/
def Obligations.StepRunsTheDecodedInstruction : Prop :=
  ∀ (s : State) (w : InstrWord) (i : Instr), s.run = .running → s.fetch = .slot (.word w) →
    decode w = .instr i → step s = exec i s

/-- R37 (decisions D6, D7): what a fetch gives at every pc. -/
def Obligations.FetchOutcomes : Prop :=
  ∀ (image : List Slot) (pc : Word),
    (∀ v, fetchAt image pc = .slot v ↔ 96 ≤ pc.toNat ∧ (pc.toNat - 96) % 4 = 0 ∧
      image[(pc.toNat - 96) / 4]? = some v) ∧
    (fetchAt image pc = .exhausted ↔ pc.toNat = 96 + 4 * image.length) ∧
    (fetchAt image pc = .fetchFault ↔ pc.toNat ≠ 96 + 4 * image.length ∧
      ¬ (96 ≤ pc.toNat ∧ (pc.toNat - 96) % 4 = 0 ∧ (pc.toNat - 96) / 4 < image.length))

/-- R37 (decisions D6, D7): a step whose fetch finds the end address or no slot sets run and changes
nothing else. -/
def Obligations.FetchEndsTheRunAndChangesNothingElse : Prop :=
  ∀ s : State, s.run = .running →
    (s.fetch = .exhausted → ∃ t, step s = .next t ∧ t.run = .exhausted ∧ SameRegs s t ∧
      SameCells s t ∧ t.pc = s.pc ∧ t.icount = s.icount ∧ t.cfg = s.cfg) ∧
    (s.fetch = .fetchFault → ∃ t, step s = .next t ∧ t.run = .fetchFault ∧ SameRegs s t ∧
      SameCells s t ∧ t.pc = s.pc ∧ t.icount = s.icount ∧ t.cfg = s.cfg)

/-- R185, R186 (pc and icount: decisions D8, D9), and R202 for what a diagnostic carries: an Invalid
slot and an UNKNOWN word are skipped, the first with MALFORMED_INPUT and its address, the second with
UNKNOWN_OPCODE, its address and the word. -/
def Obligations.InvalidAndUnknownSlotsAreSkipped : Prop :=
  (∀ s : State, s.run = .running → s.fetch = .slot .invalid →
    (∃ t, step s = .next t ∧ Skipped s t) ∧ output s = some (.diag .malformedInput s.pc none)) ∧
  (∀ (s : State) (w : InstrWord), s.run = .running → s.fetch = .slot (.word w) →
    decode w = .unknown →
    (∃ t, step s = .next t ∧ Skipped s t) ∧ output s = some (.diag .unknownOpcode s.pc (some w)))

/-- R86: every word that matches no row is UNKNOWN, every other word is one of the 19 instructions,
and UNKNOWN is no trap: no register and no cell changes and the run goes on at the next slot. -/
def Obligations.UnmatchedWordsAreUnknownAndDoNotStop : Prop :=
  (∀ w : InstrWord, decode w = .unknown ↔ ∀ r ∈ opcodeMap, w &&& r.mask ≠ r.pattern) ∧
  (∀ w : InstrWord, decode w = .unknown ∨
    ∃ r ∈ opcodeMap, w &&& r.mask = r.pattern ∧ ∃ i, decode w = .instr i ∧ i.mnemonic = r.mnemonic) ∧
  (∀ (s : State) (w : InstrWord), s.run = .running → s.fetch = .slot (.word w) → decode w = .unknown →
    ∃ t, step s = .next t ∧ SameRegs s t ∧ SameCells s t ∧ t.run = .running ∧ t.pc = s.pc + 4#64)

/-- R38, R207 (D7): a terminal state has no step. Which of them is a fault and which a refusal is the
model's choice, log 5, after R203 and U2. -/
def Obligations.TerminalStatesHaveNoStep : Prop :=
  ∀ s : State,
    (s.run = .halted → step s = .refused .halted) ∧
    (s.run = .exhausted → step s = .refused .exhausted) ∧
    (s.run = .fetchFault → step s = .fault .fetchFault) ∧
    (s.run ≠ .running → ∀ t, step s ≠ .next t)

/-! ### The instructions (files 40 to 46) -/

/-- R101 (the wrap: decision D10): ADD writes the sum modulo 2^64 and nothing else. -/
def Obligations.AddWritesTheWrappedSum : Prop :=
  ∀ (rd rn rm : Reg) (s : State), ∃ v t, exec (.add rd rn rm) s = .next t ∧ RegisterResult rd v s t ∧
    v.toNat = ((s.readReg rn).toNat + (s.readReg rm).toNat) % 2 ^ 64

/-- R102 (the wrap: decision D10): SUB writes rn minus rm modulo 2^64 and nothing else. -/
def Obligations.SubWritesTheWrappedDifference : Prop :=
  ∀ (rd rn rm : Reg) (s : State), ∃ v t, exec (.sub rd rn rm) s = .next t ∧ RegisterResult rd v s t ∧
    v.toInt = ((s.readReg rn).toInt - (s.readReg rm).toInt).bmod (2 ^ 64)

/-- R103: AND writes the bitwise AND and nothing else. -/
def Obligations.AndWritesTheBitwiseAnd : Prop :=
  ∀ (rd rn rm : Reg) (s : State), ∃ v t, exec (.and rd rn rm) s = .next t ∧ RegisterResult rd v s t ∧
    ∀ k, v.getLsbD k = ((s.readReg rn).getLsbD k && (s.readReg rm).getLsbD k)

/-- R104 under ORR_MODE = OR (decision D4): ORR writes the bitwise inclusive OR and nothing else. -/
def Obligations.OrrWritesTheBitwiseOr : Prop :=
  ∀ (rd rn rm : Reg) (s : State), s.cfg.orrMode = .or →
    ∃ v t, exec (.orr rd rn rm) s = .next t ∧ RegisterResult rd v s t ∧
      ∀ k, v.getLsbD k = ((s.readReg rn).getLsbD k || (s.readReg rm).getLsbD k)

/-- R104, R187 under ORR_MODE = NO_EFFECT (decisions D4, D9), and R202 for what a diagnostic carries:
ORR is a skipped step, with one UNRECOGNIZED_DISCRIMINATOR that carries the address and the word. -/
def Obligations.OrrWithoutEffectIsSkipped : Prop :=
  (∀ (rd rn rm : Reg) (s : State), s.cfg.orrMode = .noEffect →
    ∃ t, exec (.orr rd rn rm) s = .next t ∧ Skipped s t) ∧
  (∀ (s : State) (w : InstrWord) (rd rn rm : Reg), s.cfg.orrMode = .noEffect → s.run = .running →
    s.fetch = .slot (.word w) → decode w = .instr (.orr rd rn rm) →
    output s = some (.diag .unrecognizedDiscriminator s.pc (some w)))

/-- R105: EOR writes the bitwise exclusive OR and nothing else. -/
def Obligations.EorWritesTheBitwiseXor : Prop :=
  ∀ (rd rn rm : Reg) (s : State), ∃ v t, exec (.eor rd rn rm) s = .next t ∧ RegisterResult rd v s t ∧
    ∀ k, v.getLsbD k = ((s.readReg rn).getLsbD k ^^ (s.readReg rm).getLsbD k)

/-- R121 (the wrap: decision D10): ADDI adds the signed immediate, wrapping, and changes nothing
else. -/
def Obligations.AddiAddsTheSignedImmediate : Prop :=
  ∀ (rd rn : Reg) (imm : BitVec 12) (s : State), ∃ v t, exec (.addi rd rn imm) s = .next t ∧
    RegisterResult rd v s t ∧ v.toInt = ((s.readReg rn).toInt + imm.toInt).bmod (2 ^ 64)

/-- R122 (the wrap: decision D10): SUBI subtracts the signed immediate, wrapping, and changes nothing
else. -/
def Obligations.SubiSubtractsTheSignedImmediate : Prop :=
  ∀ (rd rn : Reg) (imm : BitVec 12) (s : State), ∃ v t, exec (.subi rd rn imm) s = .next t ∧
    RegisterResult rd v s t ∧ v.toInt = ((s.readReg rn).toInt - imm.toInt).bmod (2 ^ 64)

/-- R131: LSL moves every bit up by shamt; bits past bit 63 are lost and zeros enter at bit 0. -/
def Obligations.LslShiftsLeftFillingWithZeros : Prop :=
  ∀ (rd rn : Reg) (shamt : BitVec 6) (s : State), ∃ v t, exec (.lsl rd rn shamt) s = .next t ∧
    RegisterResult rd v s t ∧ v.toNat = (s.readReg rn).toNat * 2 ^ shamt.toNat % 2 ^ 64

/-- R132: LSR moves every bit down by shamt; zeros enter at bit 63. -/
def Obligations.LsrShiftsRightFillingWithZeros : Prop :=
  ∀ (rd rn : Reg) (shamt : BitVec 6) (s : State), ∃ v t, exec (.lsr rd rn shamt) s = .next t ∧
    RegisterResult rd v s t ∧ v.toNat = (s.readReg rn).toNat / 2 ^ shamt.toNat

/-- R133: ASR divides the signed value by 2^shamt, rounding down: copies of bit 63 enter from the
top. -/
def Obligations.AsrShiftsRightKeepingTheSign : Prop :=
  ∀ (rd rn : Reg) (shamt : BitVec 6) (s : State), ∃ v t, exec (.asr rd rn shamt) s = .next t ∧
    RegisterResult rd v s t ∧ v.toInt = (s.readReg rn).toInt / 2 ^ shamt.toNat

/-- R141, R52 (the name and the key model: decisions D3, D12): LDUR writes the cell at x[rn] plus the
unsigned offset, wrapping, or 0 when there is none, and creates no cell. -/
def Obligations.LdurLoadsTheCellOrZero : Prop :=
  ∀ (rt rn : Reg) (off : BitVec 9) (s : State), ∃ ea v t,
    exec (.ldur rt rn off) s = .next t ∧ RegisterResult rt v s t ∧ ea = s.effectiveAddress rn off ∧
    ea.toNat = ((s.readReg rn).toNat + off.toNat) % 2 ^ 64 ∧
    (∀ u, s.mem.lookup ea = some u → v = u) ∧ (s.mem.lookup ea = none → v = 0#64)

/-- R142, R52 (the name, the key model and the cell of a stored 0: decisions D3, D12, D22): STUR sets
the cell at x[rn] plus the unsigned offset, wrapping, to x[rt], creating it if need be; no other cell
and no register changes. -/
def Obligations.SturStoresToOneCell : Prop :=
  ∀ (rt rn : Reg) (off : BitVec 9) (s : State), ∃ ea t,
    exec (.stur rt rn off) s = .next t ∧ ea = s.effectiveAddress rn off ∧
    ea.toNat = ((s.readReg rn).toNat + off.toNat) % 2 ^ 64 ∧
    t.mem.lookup ea = some (s.readReg rt) ∧ SameCellsBut ea s t ∧ SameRegs s t ∧
    Retired (s.pc + 4#64) s t

/-- R151, R150 (the base and the wrap: an inference of the spec's and decision D11): B goes on at its
own address plus four times the signed offset, and changes no register and no cell. -/
def Obligations.BGoesToItsTarget : Prop :=
  ∀ (off : BitVec 26) (s : State), ∃ next t, exec (.b off) s = .next t ∧ Branched next s t ∧
    (next.toNat : Int) = ((s.pc.toNat : Int) + off.toInt * 4) % 2 ^ 64

/-- R152, R150 (the base and the wrap: an inference of the spec's and decision D11): CBZ is taken
exactly when all 64 bits of x[rt] are 0. -/
def Obligations.CbzBranchesOnZero : Prop :=
  ∀ (rt : Reg) (off : BitVec 19) (s : State), ∃ next t, exec (.cbz rt off) s = .next t ∧
    Branched next s t ∧
    (next.toNat : Int) = ((s.pc.toNat : Int) + if (s.readReg rt).toNat = 0 then off.toInt * 4 else 4)
      % 2 ^ 64

/-- R153, R150 (the base and the wrap: an inference of the spec's and decision D11): CBNZ is taken
exactly when x[rt] is not 0. -/
def Obligations.CbnzBranchesOnNonzero : Prop :=
  ∀ (rt : Reg) (off : BitVec 19) (s : State), ∃ next t, exec (.cbnz rt off) s = .next t ∧
    Branched next s t ∧
    (next.toNat : Int) = ((s.pc.toNat : Int) + if (s.readReg rt).toNat = 0 then 4 else off.toInt * 4)
      % 2 ^ 64

/-- R171: MOVZ writes the field shifted left by 16 times hw, every other bit 0, whatever x[rd] was. -/
def Obligations.MovzWritesTheShiftedField : Prop :=
  ∀ (rd : Reg) (field : BitVec 16) (hw : BitVec 2) (s : State), ∃ v t,
    exec (.movz rd field hw) s = .next t ∧ RegisterResult rd v s t ∧
    v.toNat = field.toNat * 2 ^ (16 * hw.toNat)

/-- R172: MOVK writes the field into the 16-bit window at 16 times hw and keeps every other bit of
x[rd]. -/
def Obligations.MovkReplacesOneWindow : Prop :=
  ∀ (rd : Reg) (field : BitVec 16) (hw : BitVec 2) (s : State), ∃ v t,
    exec (.movk rd field hw) s = .next t ∧ RegisterResult rd v s t ∧
    ∀ k, k < 64 → v.getLsbD k = if 16 * hw.toNat ≤ k ∧ k < 16 * hw.toNat + 16
      then field.getLsbD (k - 16 * hw.toNat) else (s.readReg rd).getLsbD k

/-- R180 (conflict C6): NOP changes no register and no cell, and counts as executed. -/
def Obligations.NopOnlyAdvances : Prop :=
  ∀ s : State, ∃ t, exec .nop s = .next t ∧ SameRegs s t ∧ SameCells s t ∧ Retired (s.pc + 4#64) s t

/-- R181 (the pc: decision D15): BREAK sets run to HALTED, counts as executed, leaves the pc at its
own address, and changes nothing else; the state it leaves has no step. -/
def Obligations.BreakHalts : Prop :=
  ∀ s : State, ∃ t, exec .brk s = .next t ∧ t.run = .halted ∧ t.pc = s.pc ∧
    t.icount = s.icount + 1 ∧ SameRegs s t ∧ SameCells s t ∧ t.cfg = s.cfg ∧ ∀ u, step t ≠ .next u

/-! ### Registers and memory over all instructions -/

/-- R20, R21 (register 31: decision D14): every register, 31 included, reads back what was written to
it, and a write changes no other register. -/
def Obligations.EveryRegisterReadsBack : Prop :=
  ∀ (s : State) (r q : Reg) (v : Word),
    (s.writeReg r v).readReg r = v ∧ (q ≠ r → (s.writeReg r v).readReg q = s.readReg q)

/-- R22 (an inference of the spec's): no instruction changes a register but the one its row of the
table names. -/
def Obligations.OnlyTheDestinationRegisterChanges : Prop :=
  ∀ (i : Instr) (s : State), ∃ t, exec i s = .next t ∧
    ∀ r : Reg, destReg s.cfg.orrMode i ≠ some r → t.readReg r = s.readReg r

/-- R22 (an inference of the spec's): no instruction reads a register but those its row of the table
names: with any other values in the rest, it has the same effect. -/
def Obligations.OnlyTheSourceRegistersAreRead : Prop :=
  ∀ (i : Instr) (s s' : State), s'.pc = s.pc → s'.mem = s.mem → s'.run = s.run →
    s'.icount = s.icount → s'.cfg = s.cfg →
    (∀ r ∈ sourceRegs s.cfg.orrMode i, s'.readReg r = s.readReg r) →
    ∃ t t', exec i s = .next t ∧ exec i s' = .next t' ∧ t'.pc = t.pc ∧ t'.mem = t.mem ∧
      t'.run = t.run ∧ t'.icount = t.icount ∧
      ∀ r : Reg, destReg s.cfg.orrMode i = some r → t'.readReg r = t.readReg r

/-- R22, R60 (D6): only STUR changes the data memory, and only the cell at its own address. -/
def Obligations.OnlySturChangesMemory : Prop :=
  ∀ (i : Instr) (s : State), ∃ t, exec i s = .next t ∧ ∀ a : Key, t.mem.lookup a =
    ((storeOf i s).bind fun p => if p.1 = a then some p.2 else none).or (s.mem.lookup a)

/-- R25, R56: MemRead is the cell or 0; MemWrite sets the cell, creating it, and changes no other; at
reset no cell is populated. -/
def Obligations.MemReadAndMemWriteAreExact : Prop :=
  (∀ (m : Memory) (a : Key) (v : Word), m.lookup a = some v → m.read a = v) ∧
  (∀ (m : Memory) (a : Key), m.lookup a = none → m.read a = 0#64) ∧
  (∀ (m : Memory) (a b : Key) (v : Word),
    (m.write a v).lookup b = if b = a then some v else m.lookup b) ∧
  (∀ a : Key, State.reset.mem.lookup a = none)

/-- R55: a load changes no cell and creates none, and loading again gives the same; a store creates or
overwrites its one cell, and storing the same value again leaves the same memory. -/
def Obligations.AccessesHaveNoSideEffects : Prop :=
  (∀ (rt rn : Reg) (off : BitVec 9) (s : State), ∃ t, exec (.ldur rt rn off) s = .next t ∧
    t.mem = s.mem ∧ (rt ≠ rn → ∃ u, exec (.ldur rt rn off) t = .next u ∧ u.mem = s.mem ∧
      u.readReg rt = t.readReg rt)) ∧
  (∀ (rt rn : Reg) (off : BitVec 9) (s : State), ∃ t, exec (.stur rt rn off) s = .next t ∧
    t.mem.lookup (s.effectiveAddress rn off) = some (s.readReg rt) ∧
    SameCellsBut (s.effectiveAddress rn off) s t ∧
    ∃ u, exec (.stur rt rn off) t = .next u ∧ u.mem = t.mem)

/-- R61: after any run, a cell holds the value of the latest store to it in execution order, and what
it held at the start (INIT_MEM) when there was none; LDUR returns that, and 0 for no cell. -/
def Obligations.LoadReturnsTheLatestStore : Prop :=
  ∀ (k : Nat) (s t : State), runSteps k s = .next t →
    (∀ a : Key, t.mem.lookup a = (latestStore a k s).or (s.mem.lookup a)) ∧
    (∀ (rt rn : Reg) (off : BitVec 9), ∃ u, exec (.ldur rt rn off) t = .next u ∧ u.readReg rt =
      ((latestStore (t.effectiveAddress rn off) k s).or
        (s.mem.lookup (t.effectiveAddress rn off))).getD 0#64)

/-- R234: a STUR followed at once by a LDUR of the same key gives the stored value; and a register that
any instruction i writes is read with its new value by any instruction j that follows at once: the
register j writes, the cell it stores and the pc it leaves are those its rule computes from the
registers with i's result in place. -/
def Obligations.NextInstructionSeesTheEffects : Prop :=
  (∀ (rt rn : Reg) (off : BitVec 9) (qt qn : Reg) (qoff : BitVec 9) (s : State),
    s.effectiveAddress qn qoff = s.effectiveAddress rn off →
    ∃ t u, exec (.stur rt rn off) s = .next t ∧ exec (.ldur qt qn qoff) t = .next u ∧
      u.readReg qt = s.readReg rt) ∧
  (∀ (i j : Instr) (s : State) (r : Reg) (v : Word),
    resultOf s.cfg.orrMode s.readReg s.mem i = some (r, v) →
    ∃ t u, exec i s = .next t ∧ exec j t = .next u ∧
      (∀ q, u.readReg q = match resultOf s.cfg.orrMode (withReg s.readReg r v) s.mem j with
        | some (d, w) => if q = d then w else withReg s.readReg r v q
        | none => withReg s.readReg r v q) ∧
      (∀ a, u.mem.lookup a = match storeFrom (withReg s.readReg r v) j with
        | some (b, w) => if a = b then some w else s.mem.lookup a
        | none => s.mem.lookup a) ∧
      u.pc = pcFrom (withReg s.readReg r v) (s.pc + 4#64) j)

/-! ### Control flow and runs -/

/-- R154: branches have no delay slot and no annulment: the next slot fetched is the one at the target
of a taken branch, and the one at pc + 4 after a branch that is not taken. -/
def Obligations.BranchesHaveNoDelaySlot : Prop :=
  (∀ (s : State) (w : InstrWord) (off : BitVec 26), s.run = .running → s.fetch = .slot (.word w) →
    decode w = .instr (.b off) →
    ∃ t, step s = .next t ∧ t.run = .running ∧ t.fetch = fetchAt s.cfg.image (s.branchTarget off)) ∧
  (∀ (s : State) (w : InstrWord) (rt : Reg) (off : BitVec 19), s.run = .running →
    s.fetch = .slot (.word w) → decode w = .instr (.cbz rt off) →
    ∃ t, step s = .next t ∧ t.run = .running ∧ t.fetch = fetchAt s.cfg.image
      (if s.readReg rt = 0#64 then s.branchTarget off else s.pc + 4#64)) ∧
  (∀ (s : State) (w : InstrWord) (rt : Reg) (off : BitVec 19), s.run = .running →
    s.fetch = .slot (.word w) → decode w = .instr (.cbnz rt off) →
    ∃ t, step s = .next t ∧ t.run = .running ∧ t.fetch = fetchAt s.cfg.image
      (if s.readReg rt = 0#64 then s.pc + 4#64 else s.branchTarget off))

/-- R237, U3: `B #0` never ends: after any number of steps the run is still RUNNING at its address,
with the registers, the cells and the image unchanged. -/
def Obligations.BranchToItselfNeverEnds : Prop :=
  ∀ (k : Nat) (s : State) (w : InstrWord), s.run = .running → s.fetch = .slot (.word w) →
    decode w = .instr (.b 0#26) →
    ∃ t, runSteps k s = .next t ∧ t.run = .running ∧ t.pc = s.pc ∧ t.icount = s.icount + k ∧
      SameRegs s t ∧ SameCells s t ∧ t.cfg = s.cfg

/-- R34, R37, R188: run changes only through BREAK and the two ends of fetch. -/
def Obligations.RunChangesOnlyByBreakAndFetch : Prop :=
  ∀ s t : State, step s = .next t →
    (t.run = .halted ↔ NextInstr s .brk) ∧ (t.run = .exhausted ↔ s.fetch = .exhausted) ∧
    (t.run = .fetchFault ↔ s.fetch = .fetchFault) ∧
    (t.run = .running ↔ ∃ v, s.fetch = .slot v ∧ ¬ NextInstr s .brk)

/-- R27, R60, R235 (D6): no run of any length changes IMAGE or ORR_MODE, so stores are never seen by
fetch. That the two stand in the state is the model's choice, log 1. -/
def Obligations.ImageAndModeNeverChange : Prop :=
  ∀ (k : Nat) (s t : State), runSteps k s = .next t → t.cfg = s.cfg

/-- R31, R36 (D8, D9, D16): over a run of any length icount goes up by exactly the number of executed
instructions, as their output tells them; skipped steps and the ends of fetch do not count. -/
def Obligations.IcountCountsExecutedInstructions : Prop :=
  ∀ (k : Nat) (s t : State), runSteps k s = .next t → t.icount = s.icount + executedSteps k s

/-- R15, R32, R79, R80, R201, R202, R204 (the one outcome of a step: an inference of the spec's):
what a step's output says is what the step did. A decode outcome comes with one more executed
instruction, and shows the format and the mnemonic of the instruction in the slot and the fields of
its word, each with its kind, width, bits and the value of R79; a diagnostic comes with a skipped
step, and its word is the slot's; no output comes with the end of a run at its fetch. That such a step
has no output is the model's deduction, log 6; the order of the fields and the absence of the opcode
among them are its choice, log 21. -/
def Obligations.OutputTellsWhatTheStepDid : Prop :=
  ∀ s t : State, step s = .next t →
    (∀ fmt m fs, output s = some (.decoded fmt m fs) → t.icount = s.icount + 1 ∧
      ∃ w i, s.fetch = .slot (.word w) ∧ decode w = .instr i ∧ m = i.mnemonic ∧ fmt = m.format ∧
        fs = extractFields fmt w ∧ fs = typedFields w i) ∧
    (∀ kind addr word, output s = some (.diag kind addr word) → Skipped s t ∧ addr = s.pc ∧
      (word = none ↔ kind = .malformedInput) ∧ (∀ w, word = some w → s.fetch = .slot (.word w))) ∧
    (output s = none → (t.run = .exhausted ∨ t.run = .fetchFault) ∧ SameRegs s t ∧ SameCells s t ∧
      t.pc = s.pc ∧ t.icount = s.icount)

/-- R31, R213 (the label: decision D16): a snapshot follows exactly the executed instructions, and it
shows the state after the step, the instruction's address and mnemonic, and the new icount as its
label. -/
def Obligations.SnapshotShowsTheStateAfterTheStep : Prop :=
  ∀ s t : State, step s = .next t →
    ((traceStep s).isSome ↔ t.icount = s.icount + 1) ∧
    (∀ p, traceStep s = some p → p.cycle = t.icount ∧ p.address = s.pc ∧ p.registers = t.x ∧
      p.cells = t.mem ∧ ∃ i, NextInstr s i ∧ p.mnemonic = i.mnemonic)

/-! ### Reset, the invariant, and whole-machine results -/

/-- R230: every piece of state after reset. That IMAGE then has no slot is the model's choice, log 2;
ORR_MODE = OR is decision D4. -/
def Obligations.ResetState : Prop :=
  (∀ r : Reg, State.reset.readReg r = 0#64) ∧ State.reset.pc = 96#64 ∧
  (∀ a : Key, State.reset.mem.lookup a = none) ∧ State.reset.run = .running ∧
  State.reset.icount = 0 ∧ State.reset.cfg.image = [] ∧ State.reset.cfg.orrMode = .or

/-- R24, R26, R233 (D19): in a launch with presets, each register and key preset holds its preset value
(the last one given, where there are several: log 15), everything else is as after reset, and the
invariant holds, whatever is preset. -/
def Obligations.LaunchMeetsTheInvariant : Prop :=
  ∀ (cfg : Config) (regs : List (Reg × Word)) (mem : List (Key × Word)),
    Inv (State.launch cfg regs mem) ∧ (State.launch cfg regs mem).pc = 96#64 ∧
    (State.launch cfg regs mem).run = .running ∧ (State.launch cfg regs mem).icount = 0 ∧
    (State.launch cfg regs mem).cfg = cfg ∧
    (∀ (r : Reg) (v : Word) (before after : List (Reg × Word)), regs = before ++ (r, v) :: after →
      (∀ p ∈ after, p.1 ≠ r) → (State.launch cfg regs mem).readReg r = v) ∧
    (∀ (a : Key) (v : Word) (before after : List (Key × Word)), mem = before ++ (a, v) :: after →
      (∀ p ∈ after, p.1 ≠ a) → (State.launch cfg regs mem).mem.lookup a = some v) ∧
    (∀ r : Reg, (∀ p ∈ regs, p.1 ≠ r) → (State.launch cfg regs mem).readReg r = 0#64) ∧
    (∀ a : Key, (∀ p ∈ mem, p.1 ≠ a) → (State.launch cfg regs mem).mem.lookup a = none)

/-- R230: the state after reset meets the invariant. -/
def Obligations.ResetMeetsTheInvariant : Prop := Inv State.reset

/-- R29, R37, R181 (decisions D7, D15; that the pc is always a multiple of 4: an inference of the
spec's): every step keeps the invariant: the memory's canonical form (log 3), a pc that is a multiple
of 4, and an ended run that stands at what ended it. -/
def Obligations.EveryStepKeepsTheInvariant : Prop :=
  ∀ s t : State, Inv s → step s = .next t → Inv t

/-- R35: no program can tell a populated cell holding 0 from an absent one, or one icount from
another: two states that differ only there step alike and stay so. -/
def Obligations.ZeroCellsAndIcountAreInvisible : Prop :=
  ∀ s s' : State, Indistinguishable s s' →
    (∀ t, step s = .next t → ∃ t', step s' = .next t' ∧ Indistinguishable t t') ∧
    (∀ f, step s = .fault f → step s' = .fault f) ∧ (∀ r, step s = .refused r → step s' = .refused r)

/-- R240 to R246 (D17): on every fetched slot the block interfaces (decoder, field extractor, register
file ports, ALU, pc unit, data memory port) compute the step. That the blocks stand as a function
beside the meanings, which step does not call, is the model's choice, log 17. -/
def Obligations.DatapathComputesTheStep : Prop :=
  ∀ (s : State) (v : Slot), s.run = .running → s.fetch = .slot v → step s = .next (datapathStep v s)
end

