-- ==== Sys2Proof/Laws/Decode.lean ====
section
/-!
SUPPORT. The bit-field algebra of the decoder and the encoder, and what the classifier answers.
-/

namespace Sys2Proof

/-! ### Slicing and placing fields -/

theorem getLsbD_bits (w : InstrWord) (lo len i : Nat) :
    (bits w lo len).getLsbD i = (decide (i < len) && w.getLsbD (lo + i)) := by
  simp only [bits, BitVec.getLsbD_extractLsb']

theorem getLsbD_place {len : Nat} (v : BitVec len) (lo i : Nat) :
    (place v lo).getLsbD i = (decide (i < 32) && decide (lo ≤ i) && v.getLsbD (i - lo)) := by
  simp only [place, BitVec.getLsbD_shiftLeft, BitVec.getLsbD_setWidth]
  by_cases h : i < 32 <;> by_cases h2 : lo ≤ i
  · have h3 : i - lo < 32 := by omega
    have h4 : ¬ i < lo := by omega
    simp [h, h2, h3, h4]
  · have h4 : i < lo := by omega
    simp [h2, h4]
  all_goals simp [h]

/-- A slice as a number: shifted down and cut off (R9). -/
theorem toNat_bits (w : InstrWord) (lo len : Nat) :
    (bits w lo len).toNat = w.toNat / 2 ^ lo % 2 ^ len := by
  rw [bits, BitVec.extractLsb'_toNat, Nat.shiftRight_eq_div_pow]

/-- A slice that reaches bit 31 as a number. -/
theorem toNat_bits_top (w : InstrWord) (lo len : Nat) (h : lo + len = 32) :
    (bits w lo len).toNat = w.toNat / 2 ^ lo := by
  have hw : w.toNat < 2 ^ len * 2 ^ lo := by
    rw [← Nat.pow_add, Nat.add_comm, h]; exact w.isLt
  rw [toNat_bits, Nat.mod_eq_of_lt ((Nat.div_lt_iff_lt_mul (by positivity)).2 hw)]

@[simp] theorem bits_or (v w : InstrWord) (lo len : Nat) :
    bits (v ||| w) lo len = bits v lo len ||| bits w lo len := by
  refine BitVec.eq_of_getLsbD_eq fun i hi => ?_
  simp only [getLsbD_bits, BitVec.getLsbD_or, Bool.and_or_distrib_left]

/-- A placed field is read back from its place. -/
theorem bits_place {len : Nat} (v : BitVec len) (lo : Nat) (h : lo + len ≤ 32) :
    bits (place v lo) lo len = v := by
  refine BitVec.eq_of_getLsbD_eq fun i hi => ?_
  have : lo + i < 32 := by omega
  simp only [getLsbD_bits, getLsbD_place, hi, this, Nat.le_add_right, Nat.add_sub_cancel_left,
    decide_true, Bool.true_and]

/-- A placed field leaves the slices below it 0. -/
theorem bits_place_below {len : Nat} (v : BitVec len) (lo lo' n : Nat) (h : lo' + n ≤ lo) :
    bits (place v lo) lo' n = 0#n := by
  refine BitVec.eq_of_getLsbD_eq fun i hi => ?_
  have : ¬ lo ≤ lo' + i := by omega
  simp only [getLsbD_bits, getLsbD_place, this, decide_false, Bool.and_false, Bool.false_and,
    BitVec.getLsbD_zero]

/-- A placed field leaves the slices above it 0. -/
theorem bits_place_above {len : Nat} (v : BitVec len) (lo lo' n : Nat) (h : lo + len ≤ lo') :
    bits (place v lo) lo' n = 0#n := by
  refine BitVec.eq_of_getLsbD_eq fun i hi => ?_
  have : v.getLsbD (lo' + i - lo) = false := BitVec.getLsbD_of_ge _ _ (by omega)
  simp only [getLsbD_bits, getLsbD_place, this, Bool.and_false, BitVec.getLsbD_zero]

/-! ### The classifier -/

/-- A row matches when the word's leading bits, as a number, are its code (R80). -/
theorem matches_iff {r : OpcodeRow} (hr : r ∈ opcodeMap) (w : InstrWord) :
    r.matches w = true ↔ w.toNat / 2 ^ (32 - r.length) = r.code := by
  have hlen : ∀ r ∈ opcodeMap, 32 - r.length + r.length = 32 := by decide
  rw [OpcodeRow.matches, beq_iff_eq, toNat_bits_top _ _ _ (hlen r hr)]

/-- What the classifier answers is a row of the map that matches the word. -/
theorem classify_sound {w : InstrWord} {r : OpcodeRow} (h : classify w = some r) :
    r ∈ opcodeMap ∧ r.matches w = true :=
  ⟨List.mem_of_find?_eq_some h, by simpa using List.find?_some h⟩

/-- The classifier answers nothing exactly when no row matches. -/
theorem classify_eq_none {w : InstrWord} :
    classify w = none ↔ ∀ r ∈ opcodeMap, r.matches w = false := by
  simp only [classify, List.find?_eq_none, Bool.not_eq_true]

/-- The instruction of a row has the row's mnemonic. -/
@[simp] theorem instrOf_mnemonic (m : Mnemonic) (w : InstrWord) : (instrOf m w).mnemonic = m := by
  cases m <;> rfl

/-- What decode answers: the instruction of a row of the map that matches the word (R80). -/
theorem decode_sound {w : InstrWord} {i : Instr} (h : decode w = .instr i) :
    ∃ r ∈ opcodeMap, r.matches w = true ∧ i = instrOf r.mnemonic w := by
  unfold decode at h
  split at h
  · next r hr =>
    obtain ⟨hmem, hm⟩ := classify_sound hr
    exact ⟨r, hmem, hm, by injection h with h; exact h.symm⟩
  · cases h

/-- A row's format is its mnemonic's. -/
theorem row_format {r : OpcodeRow} (hr : r ∈ opcodeMap) : r.format = r.mnemonic.format := by
  revert r; decide

/-! ### Loading a word from the opcode table's numbering -/

@[simp] theorem tableSlot_32 (w : InstrWord) : tableSlot 32 w.toNat = .word w := by
  simp only [tableSlot, le_refl, if_true, Slot.word.injEq]
  rw [Nat.mod_eq_of_lt w.isLt, BitVec.ofNat_toNat, BitVec.setWidth_eq]

end Sys2Proof
end

