-- ==== Sys2Proof/Laws/State.lean ====
section
/-!
SUPPORT. The small lemmas of the state's updates: one per field per update, true by `rfl`, so that no
later proof unfolds a record update.
-/

namespace Sys2Proof.Machine

/-! ### writeReg -/

@[simp] theorem State.writeReg_pc (s : State) (r : Reg) (v : Word) : (s.writeReg r v).pc = s.pc := rfl
@[simp] theorem State.writeReg_mem (s : State) (r : Reg) (v : Word) : (s.writeReg r v).mem = s.mem := rfl
@[simp] theorem State.writeReg_run (s : State) (r : Reg) (v : Word) : (s.writeReg r v).run = s.run := rfl
@[simp] theorem State.writeReg_icount (s : State) (r : Reg) (v : Word) :
    (s.writeReg r v).icount = s.icount := rfl
@[simp] theorem State.writeReg_cfg (s : State) (r : Reg) (v : Word) : (s.writeReg r v).cfg = s.cfg := rfl
theorem State.writeReg_x (s : State) (r : Reg) (v : Word) :
    (s.writeReg r v).x = s.x.set r.toNat v r.isLt := rfl

/-! ### writeMem -/

@[simp] theorem State.writeMem_x (s : State) (a : Key) (v : Word) : (s.writeMem a v).x = s.x := rfl
@[simp] theorem State.writeMem_pc (s : State) (a : Key) (v : Word) : (s.writeMem a v).pc = s.pc := rfl
@[simp] theorem State.writeMem_mem (s : State) (a : Key) (v : Word) :
    (s.writeMem a v).mem = s.mem.write a v := rfl
@[simp] theorem State.writeMem_run (s : State) (a : Key) (v : Word) : (s.writeMem a v).run = s.run := rfl
@[simp] theorem State.writeMem_icount (s : State) (a : Key) (v : Word) :
    (s.writeMem a v).icount = s.icount := rfl
@[simp] theorem State.writeMem_cfg (s : State) (a : Key) (v : Word) : (s.writeMem a v).cfg = s.cfg := rfl
@[simp] theorem State.writeMem_readReg (s : State) (a : Key) (v : Word) (r : Reg) :
    (s.writeMem a v).readReg r = s.readReg r := rfl

/-! ### retire -/

@[simp] theorem State.retire_x (s : State) (n : Word) : (s.retire n).x = s.x := rfl
@[simp] theorem State.retire_pc (s : State) (n : Word) : (s.retire n).pc = n := rfl
@[simp] theorem State.retire_mem (s : State) (n : Word) : (s.retire n).mem = s.mem := rfl
@[simp] theorem State.retire_run (s : State) (n : Word) : (s.retire n).run = s.run := rfl
@[simp] theorem State.retire_icount (s : State) (n : Word) : (s.retire n).icount = s.icount + 1 := rfl
@[simp] theorem State.retire_cfg (s : State) (n : Word) : (s.retire n).cfg = s.cfg := rfl
@[simp] theorem State.retire_readReg (s : State) (n : Word) (r : Reg) :
    (s.retire n).readReg r = s.readReg r := rfl

/-! ### skipSlot -/

@[simp] theorem State.skipSlot_x (s : State) : s.skipSlot.x = s.x := rfl
@[simp] theorem State.skipSlot_pc (s : State) : s.skipSlot.pc = s.pc + 4#64 := rfl
@[simp] theorem State.skipSlot_mem (s : State) : s.skipSlot.mem = s.mem := rfl
@[simp] theorem State.skipSlot_run (s : State) : s.skipSlot.run = s.run := rfl
@[simp] theorem State.skipSlot_icount (s : State) : s.skipSlot.icount = s.icount := rfl
@[simp] theorem State.skipSlot_cfg (s : State) : s.skipSlot.cfg = s.cfg := rfl
@[simp] theorem State.skipSlot_readReg (s : State) (r : Reg) : s.skipSlot.readReg r = s.readReg r := rfl

/-! ### endRun -/

@[simp] theorem State.endRun_x (s : State) (q : RunState) : (s.endRun q).x = s.x := rfl
@[simp] theorem State.endRun_pc (s : State) (q : RunState) : (s.endRun q).pc = s.pc := rfl
@[simp] theorem State.endRun_mem (s : State) (q : RunState) : (s.endRun q).mem = s.mem := rfl
@[simp] theorem State.endRun_run (s : State) (q : RunState) : (s.endRun q).run = q := rfl
@[simp] theorem State.endRun_icount (s : State) (q : RunState) : (s.endRun q).icount = s.icount := rfl
@[simp] theorem State.endRun_cfg (s : State) (q : RunState) : (s.endRun q).cfg = s.cfg := rfl
@[simp] theorem State.endRun_readReg (s : State) (q : RunState) (r : Reg) :
    (s.endRun q).readReg r = s.readReg r := rfl

/-! ### result: one register written, and on to pc + 4 -/

@[simp] theorem State.result_pc (s : State) (r : Reg) (v : Word) : (s.result r v).pc = s.pc + 4#64 := rfl
@[simp] theorem State.result_mem (s : State) (r : Reg) (v : Word) : (s.result r v).mem = s.mem := rfl
@[simp] theorem State.result_run (s : State) (r : Reg) (v : Word) : (s.result r v).run = s.run := rfl
@[simp] theorem State.result_icount (s : State) (r : Reg) (v : Word) :
    (s.result r v).icount = s.icount + 1 := rfl
@[simp] theorem State.result_cfg (s : State) (r : Reg) (v : Word) : (s.result r v).cfg = s.cfg := rfl
theorem State.result_x (s : State) (r : Reg) (v : Word) :
    (s.result r v).x = s.x.set r.toNat v r.isLt := rfl

/-- The default advance in numbers (R29). -/
@[simp] theorem State.nextPc_eq (s : State) : s.nextPc = s.pc + 4#64 := rfl

/-- The fetch depends on the image and the pc alone. -/
theorem State.fetch_congr {s t : State} (hc : t.cfg.image = s.cfg.image) (hp : t.pc = s.pc) :
    t.fetch = s.fetch := by simp only [State.fetch, hc, hp]

end Sys2Proof.Machine
end

