-- ==== Sys2Proof/Laws/Ops.lean ====
section
/-!
SUPPORT. One lemma per shared operation that says what it does: registers, the data memory, the
fetch.
-/

namespace Sys2Proof.Machine

/-! ### Registers -/

/-- What a register write does to every register read. -/
theorem State.readReg_writeReg (s : State) (r q : Reg) (v : Word) :
    (s.writeReg r v).readReg q = if q = r then v else s.readReg q := by
  simp only [State.readReg, State.writeReg, Vector.getElem_set, BitVec.toNat_inj, eq_comm]

/-- What an instruction that writes one register does to every register read. -/
theorem State.readReg_result (s : State) (r q : Reg) (v : Word) :
    (s.result r v).readReg q = if q = r then v else s.readReg q :=
  s.readReg_writeReg r q v

/-- Two states with the same register reads have the same register file. -/
theorem State.x_ext {s t : State} (h : ∀ r, s.readReg r = t.readReg r) : s.x = t.x := by
  refine Vector.ext fun i hi => ?_
  have := h (BitVec.ofNat 5 i)
  simpa only [State.readReg, BitVec.toNat_ofNat, Nat.mod_eq_of_lt (show i < 2 ^ 5 from hi)] using this

/-! ### Data memory -/

/-- What a write does to every lookup: the cell holds the value, and no other cell changes (R56). -/
theorem Memory.lookup_write (m : Memory) (a b : Key) (v : Word) :
    (m.write a v).lookup b = if b = a then some v else m.lookup b := by
  induction m with
  | nil => simp only [Memory.write, Memory.lookup, eq_comm]
  | cons c rest ih =>
    obtain ⟨k, u⟩ := c
    simp only [Memory.write]
    split
    · next hka => subst hka; by_cases hb : b = k <;> simp [Memory.lookup, hb, Ne.symm]
    · next hka =>
      split
      · by_cases hb : b = a <;> simp [Memory.lookup, hb, Ne.symm]
      · simp only [Memory.lookup, ih]
        by_cases hb : b = a
        · subst hb; simp [hka]
        · simp [hb]

/-- What a write does to every read. -/
theorem Memory.read_write (m : Memory) (a b : Key) (v : Word) :
    (m.write a v).read b = if b = a then v else m.read b := by
  simp only [Memory.read, Memory.lookup_write]
  split <;> rfl

/-- Every key of a written memory is the written key or was there before. -/
theorem Memory.mem_write {m : Memory} {a : Key} {v : Word} {c : Key × Word}
    (h : c ∈ m.write a v) : c.1 = a ∨ c ∈ m := by
  induction m with
  | nil => simp_all [Memory.write]
  | cons d rest ih =>
    obtain ⟨k, u⟩ := d
    simp only [Memory.write] at h
    split at h
    · rcases List.mem_cons.1 h with rfl | h
      · exact .inl rfl
      · exact .inr (List.mem_cons_of_mem _ h)
    · split at h
      · rcases List.mem_cons.1 h with rfl | h
        · exact .inl rfl
        · exact .inr h
      · rcases List.mem_cons.1 h with rfl | h
        · exact .inr (List.mem_cons_self ..)
        · exact (ih h).imp_right (List.mem_cons_of_mem _)

/-- A write keeps the canonical form (log 3). -/
theorem Memory.wf_write {m : Memory} (h : m.wf) (a : Key) (v : Word) : (m.write a v).wf := by
  induction m with
  | nil => exact List.pairwise_singleton ..
  | cons d rest ih =>
    obtain ⟨k, u⟩ := d
    have hrest := List.pairwise_cons.1 h
    simp only [Memory.write]
    by_cases hka : k = a
    · subst hka
      rw [if_pos rfl]
      exact List.pairwise_cons.2 ⟨hrest.1, hrest.2⟩
    · by_cases hlt : a < k
      · rw [if_neg hka, if_pos hlt]
        refine List.pairwise_cons.2 ⟨fun c hc => ?_, h⟩
        rcases List.mem_cons.1 hc with rfl | hc
        · exact hlt
        · exact BitVec.lt_trans hlt (hrest.1 c hc)
      · rw [if_neg hka, if_neg hlt]
        refine List.pairwise_cons.2 ⟨fun c hc => ?_, ih hrest.2⟩
        rcases Memory.mem_write hc with hca | hc
        · have : k.toNat ≠ a.toNat := fun e => hka (BitVec.eq_of_toNat_eq e)
          simp only [hca, BitVec.lt_def, not_lt] at hlt ⊢
          omega
        · exact hrest.1 c hc

/-- The memory after reset has the canonical form. -/
theorem reset_mem_wf : State.reset.mem.wf := List.Pairwise.nil

/-! ### Fetch -/

/-- When a fetch finds a slot (R37). -/
theorem fetchAt_slot {image : List Slot} {pc : Word} {v : Slot} :
    fetchAt image pc = .slot v ↔ (slotIndex pc).bind (image[·]?) = some v := by
  unfold fetchAt
  split
  · next u h => simp [h]
  · next h => simp only [h, reduceCtorEq, iff_false]; split <;> simp

/-- The slot index of a slot's address (R27). -/
theorem slotIndex_eq_some {pc : Word} {k : Nat} :
    slotIndex pc = some k ↔ pc.toNat = pcBase + pcStep * k := by
  unfold slotIndex pcBase pcStep
  split
  · simp only [Option.some.injEq]; omega
  · simp only [reduceCtorEq, false_iff]; omega

/-- Loading a slot puts it at its index. -/
theorem getElem?_placeSlot (image : List Slot) (k : Nat) (v : Slot) :
    (placeSlot image k v)[k]? = some v := by
  have hlen : (image.take k ++ List.replicate (k - image.length) Slot.invalid).length = k := by
    simp only [List.length_append, List.length_take, List.length_replicate]; omega
  rw [placeSlot, List.getElem?_append_right (by omega)]
  simp only [hlen, Nat.sub_self, List.getElem?_cons_zero]

end Sys2Proof.Machine
end

