-- ==== Sys2Proof/Laws/PerInstr.lean ====
section
/-!
SUPPORT. Statements about every instruction as syntax, one lemma per constructor of `Instr`.

`EncodesInItsRow`: the word of an instruction matches the row of the opcode map that carries the
instruction's mnemonic (R83, R98: "word = match | ...").
-/

namespace Sys2Proof.Laws

/-- The word of `i` matches a row of the opcode map that carries `i`'s mnemonic and format. -/
def EncodesInItsRow.Statement (i : Instr) : Prop :=
  ∃ r ∈ opcodeMap, r.mnemonic = i.mnemonic ∧ r.format = i.mnemonic.format ∧
    r.matches (encode i) = true

/-- The leading bits of each format's word are its opcode field. -/
theorem leading_encodeR (c : BitVec 11) (rd rn rm : Reg) : bits (encodeR c rd rn rm) 21 11 = c := by
  simp [encodeR, bits_place, bits_place_above]
theorem leading_encodeI (c : BitVec 10) (rd rn : Reg) (imm : BitVec 12) :
    bits (encodeI c rd rn imm) 22 10 = c := by
  simp [encodeI, bits_place, bits_place_above]
theorem leading_encodeShift (c : BitVec 11) (rd rn : Reg) (shamt : BitVec 6) :
    bits (encodeShift c rd rn shamt) 21 11 = c := by
  simp [encodeShift, bits_place, bits_place_above]
theorem leading_encodeD (c : BitVec 11) (rt rn : Reg) (off : BitVec 9) :
    bits (encodeD c rt rn off) 21 11 = c := by
  simp [encodeD, bits_place, bits_place_above]
theorem leading_encodeB (c : BitVec 6) (off : BitVec 26) : bits (encodeB c off) 26 6 = c := by
  simp [encodeB, bits_place, bits_place_above]
theorem leading_encodeCB (c : BitVec 8) (rt : Reg) (off : BitVec 19) :
    bits (encodeCB c rt off) 24 8 = c := by
  simp [encodeCB, bits_place, bits_place_above]
theorem leading_encodeIM (c : BitVec 9) (rd : Reg) (field : BitVec 16) (hw : BitVec 2) :
    bits (encodeIM c rd field hw) 23 9 = c := by
  simp [encodeIM, bits_place, bits_place_above]

/-- A row whose leading bits a word has. -/
theorem encodesInItsRow_of {i : Instr} (r : OpcodeRow) (hr : r ∈ opcodeMap)
    (hm : r.mnemonic = i.mnemonic)
    (hb : bits (encode i) (32 - r.length) r.length = BitVec.ofNat r.length r.code)
    (hc : r.code < 2 ^ r.length) : EncodesInItsRow.Statement i :=
  ⟨r, hr, hm, (row_format hr).trans (congrArg _ hm), by
    rw [OpcodeRow.matches, hb, BitVec.toNat_ofNat, Nat.mod_eq_of_lt hc, beq_self_eq_true]⟩

theorem EncodesInItsRow.add (rd rn rm : Reg) : EncodesInItsRow.Statement (.add rd rn rm) :=
  encodesInItsRow_of (opcodeMap[2]) (by decide) rfl (leading_encodeR ..) (by decide)
theorem EncodesInItsRow.sub (rd rn rm : Reg) : EncodesInItsRow.Statement (.sub rd rn rm) :=
  encodesInItsRow_of (opcodeMap[3]) (by decide) rfl (leading_encodeR ..) (by decide)
theorem EncodesInItsRow.and (rd rn rm : Reg) : EncodesInItsRow.Statement (.and rd rn rm) :=
  encodesInItsRow_of (opcodeMap[4]) (by decide) rfl (leading_encodeR ..) (by decide)
theorem EncodesInItsRow.orr (rd rn rm : Reg) : EncodesInItsRow.Statement (.orr rd rn rm) :=
  encodesInItsRow_of (opcodeMap[5]) (by decide) rfl (leading_encodeR ..) (by decide)
theorem EncodesInItsRow.eor (rd rn rm : Reg) : EncodesInItsRow.Statement (.eor rd rn rm) :=
  encodesInItsRow_of (opcodeMap[6]) (by decide) rfl (leading_encodeR ..) (by decide)
theorem EncodesInItsRow.addi (rd rn : Reg) (imm : BitVec 12) :
    EncodesInItsRow.Statement (.addi rd rn imm) :=
  encodesInItsRow_of (opcodeMap[7]) (by decide) rfl (leading_encodeI ..) (by decide)
theorem EncodesInItsRow.subi (rd rn : Reg) (imm : BitVec 12) :
    EncodesInItsRow.Statement (.subi rd rn imm) :=
  encodesInItsRow_of (opcodeMap[8]) (by decide) rfl (leading_encodeI ..) (by decide)
theorem EncodesInItsRow.lsl (rd rn : Reg) (shamt : BitVec 6) :
    EncodesInItsRow.Statement (.lsl rd rn shamt) :=
  encodesInItsRow_of (opcodeMap[9]) (by decide) rfl (leading_encodeShift ..) (by decide)
theorem EncodesInItsRow.lsr (rd rn : Reg) (shamt : BitVec 6) :
    EncodesInItsRow.Statement (.lsr rd rn shamt) :=
  encodesInItsRow_of (opcodeMap[10]) (by decide) rfl (leading_encodeShift ..) (by decide)
theorem EncodesInItsRow.asr (rd rn : Reg) (shamt : BitVec 6) :
    EncodesInItsRow.Statement (.asr rd rn shamt) :=
  encodesInItsRow_of (opcodeMap[11]) (by decide) rfl (leading_encodeShift ..) (by decide)
theorem EncodesInItsRow.ldur (rt rn : Reg) (off : BitVec 9) :
    EncodesInItsRow.Statement (.ldur rt rn off) :=
  encodesInItsRow_of (opcodeMap[12]) (by decide) rfl (leading_encodeD ..) (by decide)
theorem EncodesInItsRow.stur (rt rn : Reg) (off : BitVec 9) :
    EncodesInItsRow.Statement (.stur rt rn off) :=
  encodesInItsRow_of (opcodeMap[13]) (by decide) rfl (leading_encodeD ..) (by decide)
theorem EncodesInItsRow.b (off : BitVec 26) : EncodesInItsRow.Statement (.b off) :=
  encodesInItsRow_of (opcodeMap[14]) (by decide) rfl (leading_encodeB ..) (by decide)
theorem EncodesInItsRow.cbz (rt : Reg) (off : BitVec 19) : EncodesInItsRow.Statement (.cbz rt off) :=
  encodesInItsRow_of (opcodeMap[15]) (by decide) rfl (leading_encodeCB ..) (by decide)
theorem EncodesInItsRow.cbnz (rt : Reg) (off : BitVec 19) :
    EncodesInItsRow.Statement (.cbnz rt off) :=
  encodesInItsRow_of (opcodeMap[16]) (by decide) rfl (leading_encodeCB ..) (by decide)
theorem EncodesInItsRow.movz (rd : Reg) (field : BitVec 16) (hw : BitVec 2) :
    EncodesInItsRow.Statement (.movz rd field hw) :=
  encodesInItsRow_of (opcodeMap[17]) (by decide) rfl (leading_encodeIM ..) (by decide)
theorem EncodesInItsRow.movk (rd : Reg) (field : BitVec 16) (hw : BitVec 2) :
    EncodesInItsRow.Statement (.movk rd field hw) :=
  encodesInItsRow_of (opcodeMap[18]) (by decide) rfl (leading_encodeIM ..) (by decide)
theorem EncodesInItsRow.nop : EncodesInItsRow.Statement .nop :=
  encodesInItsRow_of (opcodeMap[0]) (by decide) rfl (by decide) (by decide)
theorem EncodesInItsRow.brk : EncodesInItsRow.Statement .brk :=
  encodesInItsRow_of (opcodeMap[1]) (by decide) rfl (by decide) (by decide)

end Sys2Proof.Laws
end

