-- ==== Sys2Proof/Laws/Step.lean ====
section
/-!
SUPPORT. What an instruction and a step can do, said once: the proofs about all instructions or all
steps case on these instead of unfolding `exec` or `step`.
-/

namespace Sys2Proof.Machine

/-- The five things an instruction can do: write one register, store one cell, only move the pc, halt,
or (ORR without effect) be skipped. -/
inductive Effect (i : Instr) (s t : State) : Prop where
  | register (rd : Reg) (v : Word) (hd : destReg s.cfg.orrMode i = some rd)
      (hs : storeOf i s = none) (hb : i ≠ .brk) (ht : t = s.result rd v)
  | store (a : Key) (v : Word) (hd : destReg s.cfg.orrMode i = none)
      (hs : storeOf i s = some (a, v)) (hb : i ≠ .brk) (ht : t = (s.writeMem a v).retire s.nextPc)
  | pcOnly (n : Word) (hd : destReg s.cfg.orrMode i = none)
      (hs : storeOf i s = none) (hb : i ≠ .brk) (ht : t = s.retire n)
  | halt (hi : i = .brk) (ht : t = (s.retire s.pc).endRun .halted)
  | skip (rd rn rm : Reg) (hi : i = .orr rd rn rm) (hm : s.cfg.orrMode = .noEffect)
      (ht : t = s.skipSlot)

/-- Every instruction gives a next state, by one of the five effects. -/
theorem exec_effect (i : Instr) (s : State) : ∃ t, exec i s = .next t ∧ Effect i s t := by
  cases i
  case orr rd rn rm =>
    cases h : s.cfg.orrMode with
    | or =>
      refine ⟨s.aluReg .orr rd rn rm, by simp only [exec, execOrr, h], ?_⟩
      exact .register rd _ (by simp only [destReg, h, if_true]) rfl Instr.noConfusion rfl
    | noEffect => exact ⟨_, by simp only [exec, execOrr, h], .skip rd rn rm rfl h rfl⟩
  case stur => exact ⟨_, rfl, .store _ _ rfl rfl Instr.noConfusion rfl⟩
  case b | cbz | cbnz | nop => exact ⟨_, rfl, .pcOnly _ rfl rfl Instr.noConfusion rfl⟩
  case brk => exact ⟨_, rfl, .halt rfl rfl⟩
  all_goals exact ⟨_, rfl, .register _ _ rfl rfl Instr.noConfusion rfl⟩

/-- The inversion of `exec`: if it answers `next t`, then by one of the five effects. -/
theorem effect_of_exec {i : Instr} {s t : State} (h : exec i s = .next t) : Effect i s t := by
  obtain ⟨u, hu, he⟩ := exec_effect i s
  rw [hu] at h; injection h with h; exact h ▸ he

/-! ### What an instruction's rule computes (Safety's `resultOf`, `storeFrom`, `pcFrom`) -/

/-- A shift amount passes through the ALU's operand unchanged. -/
theorem shamtOperand_low (v : BitVec 6) : ((shamtOperand v).extractLsb' 0 6).toNat = v.toNat := by
  simp only [shamtOperand, zext, BitVec.extractLsb'_toNat, BitVec.toNat_setWidth, Nat.shiftRight_zero]
  omega

/-- A format IM field passes through the ALU's operand unchanged. -/
theorem fieldOperand_low (f : BitVec 16) : zext ((fieldOperand f).extractLsb' 0 16) = f.setWidth 64 := by
  have h : (fieldOperand f).extractLsb' 0 16 = f := by
    refine BitVec.eq_of_getLsbD_eq fun k hk => ?_
    simp only [fieldOperand, zext, BitVec.getLsbD_extractLsb', BitVec.getLsbD_setWidth, hk, Nat.zero_add,
      decide_true, Bool.true_and, show k < 64 by omega]
  rw [h, zext]

/-- The pc after a conditional branch, taken on zero and taken on nonzero. -/
theorem branchIf_zeroTest_pc {n : Nat} (s : State) (v : Word) (off : BitVec n) :
    (s.branchIf (zeroTest v) off).pc =
      (if v = 0#64 then s.pc + off.signExtend 64 * 4#64 else s.pc + 4#64) ∧
    (s.branchIf (!zeroTest v) off).pc =
      (if v = 0#64 then s.pc + 4#64 else s.pc + off.signExtend 64 * 4#64) := by
  by_cases h : v = 0#64 <;>
    simp [State.branchIf, zeroTest, h, State.branchTarget, displacement, sext]

/-- Every instruction gives the next state whose registers, memory and pc its rule computes from the
registers, the memory and the pc. -/
theorem exec_values (i : Instr) (s : State) : ∃ t, exec i s = .next t ∧
    (∀ q, t.readReg q = match resultOf s.cfg.orrMode s.readReg s.mem i with
      | some (d, w) => withReg s.readReg d w q
      | none => s.readReg q) ∧
    t.mem = (match storeFrom s.readReg i with
      | some (a, w) => s.mem.write a w
      | none => s.mem) ∧
    t.pc = pcFrom s.readReg s.pc i ∧ t.cfg = s.cfg := by
  cases i
  case orr rd rn rm =>
    cases h : s.cfg.orrMode with
    | or => exact ⟨s.aluReg .orr rd rn rm, by simp only [exec, execOrr, h],
        fun q => State.readReg_result s rd q _, rfl, rfl, rfl⟩
    | noEffect => exact ⟨s.skipSlot, by simp only [exec, execOrr, h], fun _ => rfl, rfl, rfl, rfl⟩
  case movz | movk =>
    refine ⟨_, rfl, fun q => ?_, rfl, rfl, rfl⟩
    simp only [resultOf, State.aluWide, State.readReg_result, alu, fieldOperand_low, hwShift, withReg]
  case lsl | lsr | asr =>
    refine ⟨_, rfl, fun q => ?_, rfl, rfl, rfl⟩
    simp only [resultOf, State.aluShift, State.readReg_result, alu, shamtOperand_low, withReg]
  case cbz rt off =>
    exact ⟨s.branchIf (zeroTest (s.readReg rt)) off, rfl, fun _ => rfl, rfl,
      (branchIf_zeroTest_pc ..).1, rfl⟩
  case cbnz rt off =>
    exact ⟨s.branchIf (!zeroTest (s.readReg rt)) off, rfl, fun _ => rfl, rfl,
      (branchIf_zeroTest_pc ..).2, rfl⟩
  case stur | b | nop | brk => exact ⟨_, rfl, fun _ => rfl, rfl, rfl, rfl⟩
  all_goals exact ⟨_, rfl, fun q => State.readReg_result s _ q _, rfl, rfl, rfl⟩

/-- What a step can do: run the decoded instruction, skip a slot, or end the run at its fetch. -/
inductive StepCase (s t : State) : Prop where
  | instr (w : InstrWord) (i : Instr) (hf : s.fetch = .slot (.word w)) (hd : decode w = .instr i)
      (he : exec i s = .next t)
  | unknown (w : InstrWord) (hf : s.fetch = .slot (.word w)) (hd : decode w = .unknown)
      (ht : t = s.skipSlot)
  | invalid (hf : s.fetch = .slot .invalid) (ht : t = s.skipSlot)
  | exhausted (hf : s.fetch = .exhausted) (ht : t = s.endRun .exhausted)
  | fetchFault (hf : s.fetch = .fetchFault) (ht : t = s.endRun .fetchFault)

/-- The inversion of `step`: if it answers `next t`, the state was RUNNING and one of the cases
holds. -/
theorem step_cases {s t : State} (h : step s = .next t) : s.run = .running ∧ StepCase s t := by
  unfold step at h
  split at h
  · next hr =>
    refine ⟨hr, ?_⟩
    split at h
    · next w hf =>
      split at h
      · next i hd => exact .instr w i hf hd h
      · next hd => exact .unknown w hf hd (by injection h with h; exact h.symm)
    · next hf => exact .invalid hf (by injection h with h; exact h.symm)
    · next hf => exact .exhausted hf (by injection h with h; exact h.symm)
    · next hf => exact .fetchFault hf (by injection h with h; exact h.symm)
  all_goals cases h

/-- A loaded word is the slot the next step fetches. -/
theorem fetch_withFetchWord (s : State) (w : InstrWord) :
    (s.withFetchWord 32 w.toNat).fetch = .slot (.word w) := by
  rw [State.fetch, fetchAt_slot]
  simp only [State.withFetchWord, tableSlot_32]
  cases h : slotIndex s.pc with
  | some k => simp [h, getElem?_placeSlot]
  | none =>
    have h0 : slotIndex (BitVec.ofNat 64 pcBase) = some 0 := by decide
    simp [h0, getElem?_placeSlot]

/-- The host's contract for `withFetchWord`: the very next step runs the loaded instruction. -/
theorem step_withFetchWord (s : State) (w : InstrWord) (i : Instr) (hd : decode w = .instr i) :
    step (s.withFetchWord 32 w.toNat) = exec i (s.withFetchWord 32 w.toNat) := by
  have hr : (s.withFetchWord 32 w.toNat).run = .running := rfl
  simp only [step, hr, fetch_withFetchWord, hd]

end Sys2Proof.Machine
end

