-- ==== Sys2Proof/Tests/Slice0.lean ====
section
/-!
SUPPORT. The model's own tests: the assembler-line checks, every instruction's decoding from a word
written out from its encoding, one or two steps of every instruction from the vectors of
spec/95_test_vectors.md (each test names its vector), and for every statement with hypotheses a
concrete input that meets them.
-/

namespace Sys2Proof.Tests

open Sys2Proof Sys2Proof.Machine

/-! ### Helpers -/

/-- A launched state with an image, preset registers and preset cells. -/
def start (slots : List Slot) (regs : List (Reg × Word) := []) (cells : List (Key × Word) := []) : State :=
  State.launch { image := slots, orrMode := .or } regs cells

/-- The same under ORR_MODE = NO_EFFECT. -/
def startNoEffect (slots : List Slot) (regs : List (Reg × Word) := []) : State :=
  State.launch { image := slots, orrMode := .noEffect } regs []

/-- A launched state whose pc is 100, with a word in its slot (image of 6 slots). -/
def at100 (w : InstrWord) (regs : List (Reg × Word) := []) : State :=
  { start [.invalid, .word w, .invalid, .invalid, .invalid, .invalid] regs with pc := 100 }

def regAfter (o : StepOutcome) (r : Reg) : Option Word :=
  match o with
  | .next t => some (t.readReg r)
  | _ => none
def pcAfter (o : StepOutcome) : Option Nat :=
  match o with
  | .next t => some t.pc.toNat
  | _ => none
def memAfter (o : StepOutcome) : Option Memory :=
  match o with
  | .next t => some t.mem
  | _ => none
def runAfter (o : StepOutcome) : Option RunState :=
  match o with
  | .next t => some t.run
  | _ => none
def icountAfter (o : StepOutcome) : Option Nat :=
  match o with
  | .next t => some t.icount
  | _ => none

/-! ### Assembler lines: an ill-formed line for each check (R79, R96) -/

theorem test_refuses_mnemonic_of_another_form : assemble (.r .addi 1 2 3) = none := by decide
theorem test_refuses_register_32 : assemble (.r .add 32 0 0) = none := by decide
theorem test_refuses_rn_32 : assemble (.r .add 0 32 0) = none := by decide
theorem test_refuses_rm_32 : assemble (.r .add 0 0 32) = none := by decide
theorem test_refuses_imm_2048 : assemble (.i .addi 1 2 2048) = none := by decide
theorem test_refuses_imm_below : assemble (.i .subi 1 2 (-2049)) = none := by decide
theorem test_refuses_shamt_64 : assemble (.shift .lsl 1 2 64) = none := by decide
theorem test_refuses_offset_512 : assemble (.d .ldur 1 2 512) = none := by decide
theorem test_refuses_branch_offset_above : assemble (.b .b 33554432) = none := by decide
theorem test_refuses_branch_offset_below : assemble (.b .b (-33554433)) = none := by decide
theorem test_refuses_cb_offset_above : assemble (.cb .cbz 1 262144) = none := by decide
theorem test_refuses_cb_offset_below : assemble (.cb .cbnz 1 (-262145)) = none := by decide
theorem test_refuses_field_65536 : assemble (.im .movz 1 65536 0) = none := by decide
theorem test_refuses_shift_8 : assemble (.im .movk 1 0 8) = none := by decide
theorem test_refuses_shift_64 : assemble (.im .movk 1 0 64) = none := by decide
theorem test_accepts_boundaries : (AsmLine.i .addi 31 31 (-2048)).wellFormed = true ∧
    (AsmLine.i .subi 0 0 2047).wellFormed = true ∧ (AsmLine.d .stur 31 31 511).wellFormed = true ∧
    (AsmLine.b .b (-33554432)).wellFormed = true ∧ (AsmLine.cb .cbz 31 262143).wellFormed = true ∧
    (AsmLine.im .movz 31 65535 48).wellFormed = true ∧ (AsmLine.shift .asr 31 31 63).wellFormed = true := by
  decide
theorem test_line_text :
    lineText (disassemble (.movz 1 4660 1)) = "MOVZ R1, #4660, LSL #16".toList ∧
    lineText (disassemble (.stur 1 2 8)) = "STUR R1, [R2, #8]".toList ∧
    lineText (disassemble (.addi 1 0 0x800)) = "ADDI R1, R0, #-2048".toList := by decide

/-! ### Decoding: words written out from the encodings of R101 to R181 -/

theorem test_decode_add : decode 0b10001011000_00010_000000_00001_00011#32 = .instr (.add 3 1 2) := by decide
theorem test_decode_add_ignores_shamt : decode 0b10001011000_00010_111111_00001_00011#32 = .instr (.add 3 1 2) := by decide
theorem test_decode_sub : decode 0b11001011000_00010_000000_00001_00011#32 = .instr (.sub 3 1 2) := by decide
theorem test_decode_and : decode 0b10001010000_00010_000000_00001_00011#32 = .instr (.and 3 1 2) := by decide
theorem test_decode_orr : decode 0b10101010000_00010_000000_00001_00011#32 = .instr (.orr 3 1 2) := by decide
theorem test_decode_eor : decode 0b11101010000_00010_000000_00001_00011#32 = .instr (.eor 3 1 2) := by decide
theorem test_decode_addi : decode 0b1001000100_100000000000_00001_00010#32 = .instr (.addi 2 1 0b100000000000) := by decide
theorem test_decode_subi : decode 0b1101000100_111111111111_00001_00010#32 = .instr (.subi 2 1 0b111111111111) := by decide
theorem test_decode_lsl : decode 0b11010011011_00000_111111_00001_00010#32 = .instr (.lsl 2 1 63) := by decide
theorem test_decode_lsl_ignores_rm : decode 0b11010011011_00101_000001_00001_00010#32 = .instr (.lsl 2 1 1) := by decide
theorem test_decode_lsr : decode 0b11010011010_00000_111100_00001_00010#32 = .instr (.lsr 2 1 60) := by decide
theorem test_decode_asr : decode 0b11010011100_00000_000010_00001_00010#32 = .instr (.asr 2 1 2) := by decide
theorem test_decode_ldur : decode 0b11111000010_000001000_00_00010_00011#32 = .instr (.ldur 3 2 8) := by decide
theorem test_decode_ldur_ignores_op2 : decode 0b11111000010_000000000_11_00000_00000#32 = .instr (.ldur 0 0 0) := by decide
theorem test_decode_stur : decode 0b11111000000_111111111_00_00001_00001#32 = .instr (.stur 1 1 511) := by decide
theorem test_decode_b : decode 0b000101_11111111111111111111111111#32 = .instr (.b 0b11111111111111111111111111) := by decide
theorem test_decode_cbz : decode 0b10110100_0000000000000000010_00001#32 = .instr (.cbz 1 2) := by decide
theorem test_decode_cbnz : decode 0b10110101_0111111111111111111_00001#32 = .instr (.cbnz 1 262143) := by decide
theorem test_decode_movz : decode 0b110100101_11_1111111111111111_00001#32 = .instr (.movz 1 65535 3) := by decide
theorem test_decode_movk : decode 0b111100101_01_1010101111001101_00001#32 = .instr (.movk 1 43981 1) := by decide
theorem test_decode_nop : decode 0b00000000000000000000000000000000#32 = .instr (.nop) := by decide
theorem test_decode_brk : decode 0b11111110110111101111111111100111#32 = .instr (.brk) := by decide
theorem test_decode_unknown : decode 0x00000001#32 = .unknown ∧ decode 0xFEDEFFE6#32 = .unknown ∧
    decode 0x91400000#32 = .unknown ∧ decode 0xD3A00000#32 = .unknown ∧ decode 0xF8200000#32 = .unknown ∧
    decode 0x10000000#32 = .unknown := by decide
theorem test_encode : encode (.add 2 0 1) = 0x8B010002#32 ∧ encode (.cbz 1 (BitVec.ofInt 19 (-3))) = 0xB4FFFFA1#32 ∧
    encode (.stur 1 2 8) = 0xF8008041#32 ∧ encode (.movz 1 4660 1) = 0xD2A24681#32 := by decide
/-- The typed fields of ADDI `#-2048` (VX11). -/
theorem test_fields_addi : (extractFields .i 0x91200001#32).map (fun f => (f.name, f.width, f.value)) =
    [(.imm, 12, -2048), (.rn, 5, 0), (.rd, 5, 1)] := by decide
/-- The typed fields of CBZ `#-1` on R31 (VX17): the displacement is -4. -/
theorem test_fields_cbz : (extractFields .cb 0xB4FFFFFF#32).map (fun f => (f.name, f.width, f.value)) =
    [(.offset, 19, -4), (.rt, 5, 31)] := by decide
theorem test_line_of_31 : Slot.ofLine (List.replicate 31 '0') = .invalid := by decide
theorem test_line_of_33 : Slot.ofLine (List.replicate 33 '0') = .invalid := by decide
theorem test_line_not_binary : Slot.ofLine ('2' :: List.replicate 31 '0') = .invalid := by decide
theorem test_line_of_break : Slot.ofLine "11111110110111101111111111100111".toList = .word 0xFEDEFFE7#32 := by
  decide
theorem test_table_word_add : decodeTableWord 32 0x8B020023 = some (.add 3 1 2) := by decide
theorem test_runs_first_after_reset :
    pcAfter (step (State.reset.withFetchWord 32 0x91200022)) = some 100 ∧
    regAfter (step (State.reset.withFetchWord 32 0x91200022)) 2 = some 0xFFFFFFFFFFFFF800 := by decide

/-! ### One step of every instruction (spec/95_test_vectors.md) -/

theorem test_add_wraps_VR2 :
    regAfter (step (start [.word 0x8B020023#32] [(1, 0x7FFFFFFFFFFFFFFF), (2, 1)])) 3 = some 0x8000000000000000 ∧
    pcAfter (step (start [.word 0x8B020023#32] [(1, 0x7FFFFFFFFFFFFFFF), (2, 1)])) = some 100 := by decide
theorem test_add_same_register_VR5 :
    regAfter (step (start [.word 0x8B010021#32] [(1, 0x15)])) 1 = some 0x2A ∧
    icountAfter (step (start [.word 0x8B010021#32] [(1, 0x15)])) = some 1 := by decide
theorem test_sub_order_VR7 :
    regAfter (step (start [.word 0xCB020023#32] [(1, 5), (2, 7)])) 3 = some 0xFFFFFFFFFFFFFFFE := by decide
theorem test_sub_wraps_VR8 :
    regAfter (step (start [.word 0xCB020023#32] [(1, 0x8000000000000000), (2, 1)])) 3 = some 0x7FFFFFFFFFFFFFFF := by decide
theorem test_and_VR11 :
    regAfter (step (start [.word 0x8A020023#32] [(1, 0xF0F0), (2, 0xFF00)])) 3 = some 0xF000 := by decide
theorem test_and_all_ones_VR12 :
    regAfter (step (start [.word 0x8A020023#32] [(1, 0xFFFFFFFFFFFFFFFF), (2, 0x123456789ABCDEF0)])) 3 = some 0x123456789ABCDEF0 := by decide
theorem test_orr_VR14 :
    regAfter (step (start [.word 0xAA020023#32] [(1, 0xF0F0), (2, 0x0F00)])) 3 = some 0xFFF0 ∧
    icountAfter (step (start [.word 0xAA020023#32] [(1, 0xF0F0), (2, 0x0F00)])) = some 1 := by decide
theorem test_orr_no_effect_VR21 :
    regAfter (step (startNoEffect [.word 0xAA020023#32] [(1, 0xF0F0), (2, 0x0F00)])) 3 = some 0 ∧
    pcAfter (step (startNoEffect [.word 0xAA020023#32] [(1, 0xF0F0), (2, 0x0F00)])) = some 100 ∧
    icountAfter (step (startNoEffect [.word 0xAA020023#32] [(1, 0xF0F0), (2, 0x0F00)])) = some 0 := by decide
theorem test_eor_VR17 :
    regAfter (step (start [.word 0xEA020023#32] [(1, 0xF0F0), (2, 0xFF00)])) 3 = some 0x0FF0 := by decide
theorem test_eor_self_VR18 :
    regAfter (step (start [.word 0xEA010021#32] [(1, 0x5555)])) 1 = some 0 := by decide
theorem test_addi_negative_VI1 :
    regAfter (step (start [.word 0x91200022#32] [(1, 10)])) 2 = some 0xFFFFFFFFFFFFF80A := by decide
theorem test_addi_wraps_VI3 :
    regAfter (step (start [.word 0x91000422#32] [(1, 0x7FFFFFFFFFFFFFFF)])) 2 = some 0x8000000000000000 := by decide
theorem test_subi_minus_one_VI6 :
    regAfter (step (start [.word 0xD13FFC22#32] [(1, 0)])) 2 = some 1 := by decide
theorem test_subi_VI10 :
    regAfter (step (start [.word 0xD11FFC22#32] [(1, 3)])) 2 = some 0xFFFFFFFFFFFFF804 := by decide
theorem test_lsl_VS2 :
    regAfter (step (start [.word 0xD360FC22#32] [(1, 0xFFFFFFFFFFFFFFFF)])) 2 = some 0x8000000000000000 := by decide
theorem test_lsl_ignores_rm_VS14 :
    regAfter (step (start [.word 0xD3650422#32] [(1, 3), (5, 99)])) 2 = some 6 := by decide
theorem test_lsr_VS6 :
    regAfter (step (start [.word 0xD3400422#32] [(1, 0xFFFFFFFFFFFFFFF0)])) 2 = some 0x7FFFFFFFFFFFFFF8 := by decide
theorem test_lsr_VS5 :
    regAfter (step (start [.word 0xD340F022#32] [(1, 0xFFFFFFFFFFFFFFFF)])) 2 = some 0xF := by decide
theorem test_asr_VS9 :
    regAfter (step (start [.word 0xD3800822#32] [(1, 0xFFFFFFFFFFFFFFF0)])) 2 = some 0xFFFFFFFFFFFFFFFC := by decide
theorem test_asr_VS11 :
    regAfter (step (start [.word 0xD380FC22#32] [(1, 0x8000000000000000)])) 2 = some 0xFFFFFFFFFFFFFFFF := by decide
theorem test_ldur_into_base_VD6 :
    regAfter (step (start [.word 0xF8408042#32] [(2, 0xFFFFFFFFFFFFFFF0)] [(0xFFFFFFFFFFFFFFF8, 7)])) 2 = some 7 ∧
    memAfter (step (start [.word 0xF8408042#32] [(2, 0xFFFFFFFFFFFFFFF0)] [(0xFFFFFFFFFFFFFFF8, 7)])) = some [(0xFFFFFFFFFFFFFFF8, 7)] := by decide
theorem test_ldur_absent_neighbour_VD8 :
    regAfter (step (start [.word 0xF840C043#32] [(2, 100)] [(108, 42)])) 3 = some 0 ∧
    memAfter (step (start [.word 0xF840C043#32] [(2, 100)] [(108, 42)])) = some [(108, 42)] := by decide
theorem test_stur_zero_creates_VD4 :
    memAfter (step (start [.word 0xF8000041#32] [])) = some [(0, 0)] ∧
    pcAfter (step (start [.word 0xF8000041#32] [])) = some 100 := by decide
theorem test_stur_address_wraps_VD9 :
    memAfter (step (start [.word 0xF8001041#32] [(1, 9), (2, 0x7FFFFFFFFFFFFFFF)])) = some [(0x8000000000000000, 9)] := by decide
theorem test_b_forward_VC1 :
    pcAfter (step (at100 0x14000002#32 [])) = some 108 ∧
    icountAfter (step (at100 0x14000002#32 [])) = some 1 := by decide
theorem test_b_wraps_VC4 :
    pcAfter (step (at100 0x16000000#32 [])) = some 18446744073575333988 := by decide
theorem test_cbz_taken_VC6 :
    pcAfter (step (at100 0xB4000041#32 [])) = some 108 := by decide
theorem test_cbz_sign_bit_VC8 :
    pcAfter (step (at100 0xB4FFFFE1#32 [(1, 0x8000000000000000)])) = some 104 := by decide
theorem test_cbnz_not_taken_VC10 :
    pcAfter (step (at100 0xB5000041#32 [])) = some 104 := by decide
theorem test_cbnz_far_VC12 :
    pcAfter (step (at100 0xB57FFFE1#32 [(1, 1)])) = some 1048672 := by decide
theorem test_movz_VM1 :
    regAfter (step (start [.word 0xD2FFFFE1#32] [(1, 0x1234)])) 1 = some 0xFFFF000000000000 := by decide
theorem test_movz_zero_VM2 :
    regAfter (step (start [.word 0xD2800001#32] [(1, 0xFFFFFFFFFFFFFFFF)])) 1 = some 0 := by decide
theorem test_movk_VM5 :
    regAfter (step (start [.word 0xF2B579A1#32] [(1, 0x1122334455667788)])) 1 = some 0x11223344ABCD7788 := by decide
theorem test_movk_zero_VM7 :
    regAfter (step (start [.word 0xF2800001#32] [(1, 0xFFFFFFFFFFFFFFFF)])) 1 = some 0xFFFFFFFFFFFF0000 := by decide
theorem test_nop_VN1 :
    pcAfter (step (start [.word 0x00000000#32] [])) = some 100 ∧
    icountAfter (step (start [.word 0x00000000#32] [])) = some 1 ∧
    runAfter (step (start [.word 0x00000000#32] [])) = some .running ∧
    memAfter (step (start [.word 0x00000000#32] [])) = some [] := by decide
theorem test_break_VN2 :
    pcAfter (step (start [.word 0xFEDEFFE7#32] [])) = some 96 ∧
    icountAfter (step (start [.word 0xFEDEFFE7#32] [])) = some 1 ∧
    runAfter (step (start [.word 0xFEDEFFE7#32] [])) = some .halted := by decide
theorem test_break_is_last : step { start [.word 0xFEDEFFE7#32] with run := .halted } = .refused .halted := rfl
theorem test_unknown_VN3 : pcAfter (step (start [.word 0xFFFFFFFF#32])) = some 100 ∧
    icountAfter (step (start [.word 0xFFFFFFFF#32])) = some 0 ∧
    output (start [.word 0xFFFFFFFF#32]) = some (.diag .unknownOpcode 96 (some 0xFFFFFFFF#32)) := by decide
theorem test_invalid_VN4 : pcAfter (step (start [.invalid])) = some 100 ∧
    icountAfter (step (start [.invalid])) = some 0 ∧
    output (start [.invalid]) = some (.diag .malformedInput 96 none) := by decide
theorem test_empty_image_VN5 : runAfter (step State.reset) = some .exhausted ∧
    pcAfter (step State.reset) = some 96 ∧ icountAfter (step State.reset) = some 0 := by decide
/-- The first executed instruction is labelled 1 (R31). -/
theorem test_first_label : (traceStep (start [.word 0#32])).map (fun p => (p.cycle, p.address, p.mnemonic)) =
    some (1, 96, .nop) := by decide

/-! ### Witnesses: inputs that meet the hypotheses of the statements -/

theorem test_witness_EncodeOfDecodeClearsOnlyIgnoredBits : decode 0x8B02FC23#32 = .instr (.add 3 1 2) := by decide
theorem test_witness_IgnoredBitsNeverChangeTheDecode : decode 0xF8400C00#32 = .instr (.ldur 0 0 0) := by decide
theorem test_witness_AtMostOneRowMatchesAWord : ∃ r ∈ opcodeMap, r.matches 0x91000000#32 = true := by decide
theorem test_witness_NopAndBreakAreSingleWords : (0x03FFFFFF#32).toNat / 2 ^ 26 = 0 ∧ 0x03FFFFFF#32 ≠ 0#32 := by decide
theorem test_witness_DecodeReadsEachFieldAtItsBits : 
    0x8B1FFFFF#32 &&& 0xFFE00000#32 = 0x8B000000#32 ∧ 0xCB1FFFFF#32 &&& 0xFFE00000#32 = 0xCB000000#32 ∧
    0x8A1FFFFF#32 &&& 0xFFE00000#32 = 0x8A000000#32 ∧ 0xAA1FFFFF#32 &&& 0xFFE00000#32 = 0xAA000000#32 ∧
    0xEA1FFFFF#32 &&& 0xFFE00000#32 = 0xEA000000#32 ∧ 0x913FFFFF#32 &&& 0xFFC00000#32 = 0x91000000#32 ∧
    0xD13FFFFF#32 &&& 0xFFC00000#32 = 0xD1000000#32 ∧ 0xD37FFFFF#32 &&& 0xFFE00000#32 = 0xD3600000#32 ∧
    0xD35FFFFF#32 &&& 0xFFE00000#32 = 0xD3400000#32 ∧ 0xD39FFFFF#32 &&& 0xFFE00000#32 = 0xD3800000#32 ∧
    0xF85FFFFF#32 &&& 0xFFE00000#32 = 0xF8400000#32 ∧ 0xF81FFFFF#32 &&& 0xFFE00000#32 = 0xF8000000#32 ∧
    0x17FFFFFF#32 &&& 0xFC000000#32 = 0x14000000#32 ∧ 0xB4FFFFFF#32 &&& 0xFF000000#32 = 0xB4000000#32 ∧
    0xB5FFFFFF#32 &&& 0xFF000000#32 = 0xB5000000#32 ∧ 0xD2FFFFFF#32 &&& 0xFF800000#32 = 0xD2800000#32 ∧
    0xF2FFFFFF#32 &&& 0xFF800000#32 = 0xF2800000#32 := by decide
theorem test_witness_FieldsPartitionTheWord : Format.im ≠ .unknown ∧ Format.nop ≠ .unknown := by decide
theorem test_witness_SignAndZeroExtensionValues : (sext (0b100#3)).toInt = -4 ∧ (64 : Nat) ≤ 64 ∧ (sext (BitVec.allOnes 64)).toInt = -1 := by decide
theorem test_witness_AssembleAndDisassembleAgree : assemble (.i .addi 1 0 (-2048)) = some (.addi 1 0 0b100000000000) := by decide
theorem test_witness_OnlyBinaryLinesOf32AreWords : Slot.ofLine (List.replicate 32 '1') = .word 0xFFFFFFFF#32 ∧
    (List.replicate 31 '0').length ≠ 32 ∧ (List.replicate 33 '0').length ≠ 32 ∧
    'x' ∈ 'x' :: List.replicate 31 '0' ∧ 'x' ≠ '0' ∧ 'x' ≠ '1'  := by decide
theorem test_witness_StepRunsTheDecodedInstruction : (start [.word 0xFEDEFFE7#32]).run = .running ∧
    (start [.word 0xFEDEFFE7#32]).fetch = .slot (.word 0xFEDEFFE7#32) ∧ decode 0xFEDEFFE7#32 = .instr .brk := by decide
theorem test_witness_FetchOutcomes : fetchAt [.invalid, .word 7#32] 96 = .slot .invalid ∧ fetchAt [.invalid, .word 7#32] 100 = .slot (.word 7#32) ∧
    fetchAt [.invalid, .word 7#32] 104 = .exhausted ∧ fetchAt [.invalid, .word 7#32] 92 = .fetchFault ∧
    fetchAt [.invalid, .word 7#32] 98 = .fetchFault ∧ fetchAt [.invalid, .word 7#32] 108 = .fetchFault ∧
    fetchAt [] 96 = .exhausted := by decide
theorem test_witness_FetchEndsTheRunAndChangesNothingElse : State.reset.run = .running ∧ State.reset.fetch = .exhausted ∧
    ({ State.reset with pc := 92 } : State).run = .running ∧ ({ State.reset with pc := 92 } : State).fetch = .fetchFault := by decide
theorem test_witness_InvalidAndUnknownSlotsAreSkipped : (start [.invalid]).run = .running ∧ (start [.invalid]).fetch = .slot .invalid ∧
    (start [.word 1#32]).run = .running ∧ (start [.word 1#32]).fetch = .slot (.word 1#32) ∧ decode 1#32 = .unknown := by decide
theorem test_witness_UnmatchedWordsAreUnknownAndDoNotStop : (start [.word 0xFEDEFFE6#32]).run = .running ∧
    (start [.word 0xFEDEFFE6#32]).fetch = .slot (.word 0xFEDEFFE6#32) ∧ decode 0xFEDEFFE6#32 = .unknown := by decide
theorem test_witness_TerminalStatesHaveNoStep : (State.reset.endRun .halted).run = .halted ∧ (State.reset.endRun .exhausted).run = .exhausted ∧
    (State.reset.endRun .fetchFault).run = .fetchFault ∧ (State.reset.endRun .halted).run ≠ .running := by decide
theorem test_witness_OrrWritesTheBitwiseOr : (start []).cfg.orrMode = .or := by decide
theorem test_witness_OrrWithoutEffectIsSkipped : (startNoEffect [.word 0xAA020023#32]).cfg.orrMode = .noEffect ∧
    (startNoEffect [.word 0xAA020023#32]).run = .running ∧
    (startNoEffect [.word 0xAA020023#32]).fetch = .slot (.word 0xAA020023#32) ∧ decode 0xAA020023#32 = .instr (.orr 3 1 2) := by decide
theorem test_witness_LdurLoadsTheCellOrZero : (start [] [] [(108, 42)]).mem.lookup 108 = some 42 ∧ (start [] [] [(108, 42)]).mem.lookup 107 = none := by decide
theorem test_witness_EveryRegisterReadsBack : (30 : Reg) ≠ 31 := by decide
theorem test_witness_OnlyTheSourceRegistersAreRead : ((start []).writeReg 3 9).pc = (start []).pc ∧
    ((start []).writeReg 3 9).mem = (start []).mem ∧ ((start []).writeReg 3 9).run = (start []).run ∧
    ((start []).writeReg 3 9).icount = (start []).icount ∧ ((start []).writeReg 3 9).cfg = (start []).cfg ∧
    ∀ r ∈ sourceRegs .or (.add 3 1 2), ((start []).writeReg 3 9).readReg r = (start []).readReg r := by decide
theorem test_witness_MemReadAndMemWriteAreExact : Memory.lookup [(8, 0)] 8 = some 0 ∧ Memory.lookup [(8, 0)] 9 = none := by decide
theorem test_witness_AccessesHaveNoSideEffects : (3 : Reg) ≠ 2 := by decide
/-- A run of two steps: STUR R1, [R2, #8] and LDUR R3, [R2, #8]. -/
theorem test_witness_runs :
    regAfter (runSteps 2 (start [.word 0xF8008041#32, .word 0xF8408043#32] [(1, 42), (2, 100)])) 3 = some 42 ∧
    latestStore 108 2 (start [.word 0xF8008041#32, .word 0xF8408043#32] [(1, 42), (2, 100)]) = some 42 ∧
    latestStore 109 2 (start [.word 0xF8008041#32, .word 0xF8408043#32] [(1, 42), (2, 100)]) = none ∧
    executedSteps 2 (start [.word 0xF8008041#32, .word 0xF8408043#32] [(1, 42), (2, 100)]) = 2 := by decide
theorem test_witness_LoadReturnsTheLatestStore :
    ∃ t, runSteps 2 (start [.word 0xF8008041#32, .invalid] [(1, 42)]) = .next t := ⟨_, rfl⟩
theorem test_witness_ImageAndModeNeverChange :
    ∃ t, runSteps 2 (start [.word 0xF8008041#32, .invalid] [(1, 42)]) = .next t := ⟨_, rfl⟩
theorem test_witness_IcountCountsExecutedInstructions :
    ∃ t, runSteps 2 (start [.word 0xF8008041#32, .invalid] [(1, 42)]) = .next t := ⟨_, rfl⟩
theorem test_witness_NextInstructionSeesTheEffects : 
    (start [] [(2, 100)]).effectiveAddress 2 8 = (start [] [(2, 100)]).effectiveAddress 0 108 ∧
    resultOf .or (start [] [(2, 100)]).readReg [] (.addi 1 2 5) = some (1, 105) ∧
    resultOf .or (withReg (start [] [(2, 100)]).readReg 1 105) [] (.add 1 1 2) = some (1, 205) ∧
    resultOf .or (start [] [(2, 100)]).readReg [(108, 42)] (.ldur 31 2 8) = some (31, 42) ∧
    resultOf .or (withReg (start []).readReg 1 0xFFFF) [] (.movk 1 0xABCD 3) = some (1, 0xABCD00000000FFFF) ∧
    storeFrom (withReg (start [] [(2, 100)]).readReg 1 105) (.stur 1 2 8) = some (108, 105) ∧
    pcFrom (withReg (start []).readReg 1 105) 100 (.cbz 1 2) = 104 ∧
    pcFrom (withReg (start []).readReg 1 105) 100 (.cbnz 1 2) = 108 := by decide
theorem test_witness_BranchesHaveNoDelaySlot : (at100 0x14000002#32).run = .running ∧
    (at100 0x14000002#32).fetch = .slot (.word 0x14000002#32) ∧ decode 0x14000002#32 = .instr (.b 2) ∧
    (at100 0xB4000041#32).fetch = .slot (.word 0xB4000041#32) ∧ decode 0xB4000041#32 = .instr (.cbz 1 2) ∧
    (at100 0xB5000041#32).fetch = .slot (.word 0xB5000041#32) ∧ decode 0xB5000041#32 = .instr (.cbnz 1 2) := by decide
theorem test_witness_BranchToItselfNeverEnds : (at100 0x14000000#32).run = .running ∧
    (at100 0x14000000#32).fetch = .slot (.word 0x14000000#32) ∧ decode 0x14000000#32 = .instr (.b 0#26) := by decide
theorem test_witness_RunChangesOnlyByBreakAndFetch :
    runAfter (step (start [.word 0xFEDEFFE7#32])) = some .halted ∧ runAfter (step (start [])) = some .exhausted ∧
    runAfter (step { start [] with pc := 98 }) = some .fetchFault ∧ runAfter (step (start [.invalid])) = some .running := by
  decide
theorem test_witness_OutputTellsWhatTheStepDid :
    (∃ t, step (start [.word 0#32]) = .next t) ∧ output (start [.word 0#32]) = some (.decoded .nop .nop []) ∧
    (∃ t, step (start [.invalid]) = .next t) ∧ output (start [.invalid]) = some (.diag .malformedInput 96 none) ∧
    (∃ t, step (start []) = .next t) ∧ output (start []) = none :=
  ⟨⟨_, rfl⟩, by decide, ⟨_, rfl⟩, by decide, ⟨_, rfl⟩, by decide⟩
/-- VX11 and VX17: the typed fields with the values of R79. -/
theorem test_fields_VX11_VX17 :
    output (start [.word 0x91200001#32]) = some (.decoded .i .addi [⟨.imm, .signedImmediate, 12, 2048, -2048⟩,
      ⟨.rn, .registerIndex, 5, 0, 0⟩, ⟨.rd, .registerIndex, 5, 1, 1⟩]) ∧
    output (start [.word 0xB4FFFFFF#32]) = some (.decoded .cb .cbz
      [⟨.offset, .signedPcDisplacement, 19, 524287, -4⟩, ⟨.rt, .registerIndex, 5, 31, 31⟩]) := by decide
theorem test_witness_SnapshotShowsTheStateAfterTheStep :
    (∃ t, step (start [.word 0#32]) = .next t) ∧ (traceStep (start [.word 0#32])).isSome = true :=
  ⟨⟨_, rfl⟩, by decide⟩
theorem test_witness_LaunchMeetsTheInvariant :
    (∀ p ∈ [((1 : Reg), (5 : Word))], p.1 ≠ 2) ∧ (∀ p ∈ [((108 : Key), (42 : Word))], p.1 ≠ 109) ∧
    [((1 : Reg), (5 : Word)), (1, 6), (2, 7)] = [(1, 5)] ++ (1, 6) :: [(2, 7)] ∧
    (∀ p ∈ [((2 : Reg), (7 : Word))], p.1 ≠ 1) ∧
    [((8 : Key), (1 : Word)), (8, 0)] = [(8, 1)] ++ (8, 0) :: [] ∧
    (∀ p ∈ ([] : List (Key × Word)), p.1 ≠ 8) := by simp
theorem test_last_preset_wins :
    (start [] [(1, 5), (1, 6), (2, 7)]).readReg 1 = 6 ∧
    (start [] [] [(8, 1), (8, 0)]).mem.lookup 8 = some 0 := by decide
theorem test_witness_EveryStepKeepsTheInvariant :
    Inv (start [.word 0xFEDEFFE7#32]) ∧ ∃ t, step (start [.word 0xFEDEFFE7#32]) = .next t :=
  ⟨⟨List.Pairwise.nil, by decide, by decide, by decide, by decide⟩, _, rfl⟩
/-- A populated cell holding 0 against an absent one, and two counts; and the same two states ended by a
fetch fault and by BREAK. -/
theorem test_witness_ZeroCellsAndIcountAreInvisible :
    Indistinguishable (start [.word 0#32] [] [(8, 0)]) { start [.word 0#32] with icount := 7 } ∧
    (∃ t, step (start [.word 0#32] [] [(8, 0)]) = .next t) ∧
    Indistinguishable ((start [] [] [(8, 0)]).endRun .fetchFault) ((start []).endRun .fetchFault) ∧
    Indistinguishable ((start [] [] [(8, 0)]).endRun .halted) ((start []).endRun .halted) := by
  have h : ∀ a : Key, Memory.read [(8, 0)] a = Memory.read [] a := fun a => by
    simp only [Memory.read, Memory.lookup]; split <;> rfl
  exact ⟨⟨rfl, rfl, rfl, rfl, h⟩, ⟨_, rfl⟩, ⟨rfl, rfl, rfl, rfl, h⟩, ⟨rfl, rfl, rfl, rfl, h⟩⟩
theorem test_witness_DatapathComputesTheStep :
    (start [.word 0x8B020023#32]).run = .running ∧
    (start [.word 0x8B020023#32]).fetch = .slot (.word 0x8B020023#32) ∧
    (start [.invalid]).run = .running ∧ (start [.invalid]).fetch = .slot .invalid := by decide

end Sys2Proof.Tests
end

