-- ==== Sys2Proof/Proofs/Scope.lean ====
section
/-!
The values of sign and zero extension (00_scope.md R10), for every field no wider than a word.
-/

namespace Sys2Proof.Proofs

open Sys2Proof.Machine

/-- Sign extension keeps a field's signed value. -/
theorem toInt_sext {n : Nat} (v : BitVec n) (h : n ≤ 64) : (sext v).toInt = v.toInt :=
  BitVec.toInt_signExtend_of_le h

/-- Zero extension keeps a field's unsigned value. -/
theorem toNat_zext {n : Nat} (v : BitVec n) (h : n ≤ 64) : (zext v).toNat = v.toNat :=
  BitVec.toNat_setWidth_of_le h

/-- Settles O10: sign extension keeps the signed value, which R10 spells out by the field's top bit, and
zero extension keeps the unsigned one. -/
theorem signAndZeroExtensionValues : Obligations.SignAndZeroExtensionValues := by
  intro n v hn
  refine ⟨?signed, toNat_zext v hn⟩
  case signed =>
    calc (sext v).toInt = v.toInt := toInt_sext v hn
      _ = if v.msb then (v.toNat : Int) - 2 ^ n else v.toNat := by
        simpa using BitVec.toInt_eq_msb_cond v

end Sys2Proof.Proofs
end

/-!
The data memory's cells (10_state.md R25, 20_memory.md R56): what a read answers of a populated and of an
absent cell, and the memory after reset.
-/

namespace Sys2Proof.Proofs

open Sys2Proof.Machine

/-- `MemRead` of a populated cell (R56). -/
theorem read_of_lookup_eq_some {m : Memory} {a : Key} {v : Word} (h : m.lookup a = some v) :
    m.read a = v := by
  rw [Memory.read, h, Option.getD_some]

/-- `MemRead` of an absent cell (R25, R56). -/
theorem read_of_lookup_eq_none {m : Memory} {a : Key} (h : m.lookup a = none) :
    m.read a = 0#64 := by
  rw [Memory.read, h, Option.getD_none]

/-- No cell is populated at reset (R25). -/
@[simp] theorem lookup_reset_mem (a : Key) : State.reset.mem.lookup a = none := rfl

/-- Settles O44: each of its four clauses is one rule of the memory's operations; the write clause is
`Memory.lookup_write`, by induction on the list of cells. -/
theorem memReadAndMemWriteAreExact : Obligations.MemReadAndMemWriteAreExact := by
  refine ⟨?readPopulated, ?readAbsent, ?write, ?reset⟩
  case readPopulated => exact fun _ _ _ => read_of_lookup_eq_some
  case readAbsent => exact fun _ _ => read_of_lookup_eq_none
  case write => exact Memory.lookup_write
  case reset => exact lookup_reset_mem

end Sys2Proof.Proofs

/-!
The data space over instructions, steps and runs (20_memory.md R55, R61). A store is an optional
key and value, as `storeOf` and `stepStore` give it; `storedAt` reads it at one key, and every level says of
each cell the same thing: the value stored there, else what the cell held before.
-/

namespace Sys2Proof.Proofs

open Sys2Proof.Machine

/-! ### What a store leaves at one key -/

/-- The value an optional store puts at `a`, if it stores there. -/
def storedAt (a : Key) (store : Option (Key × Word)) : Option Word :=
  store.bind fun p => if p.1 = a then some p.2 else none

@[simp] theorem storedAt_none (a : Key) : storedAt a none = none := rfl

@[simp] theorem storedAt_some (a b : Key) (v : Word) :
    storedAt a (some (b, v)) = if b = a then some v else none := rfl

/-- A memory write in the terms of `storedAt`. -/
theorem lookup_write_eq_storedAt_or (m : Memory) (a b : Key) (v : Word) :
    (m.write b v).lookup a = (storedAt a (some (b, v))).or (m.lookup a) := by
  rw [Memory.lookup_write, storedAt_some]
  by_cases hab : a = b
  · rw [if_pos hab, if_pos hab.symm, Option.some_or]
  · rw [if_neg hab, if_neg (Ne.symm hab), Option.none_or]

/-- Writing the same value again gives the same list of cells, in canonical form or not (R55). -/
theorem write_write_same (m : Memory) (a : Key) (v : Word) :
    (m.write a v).write a v = m.write a v := by
  induction m with
  | nil => simp only [Memory.write, if_true]
  | cons c rest ih =>
    obtain ⟨k, u⟩ := c
    by_cases hka : k = a
    · simp only [Memory.write, hka, if_true]
    · by_cases hlt : a < k
      · simp only [Memory.write, hka, hlt, if_true, if_false]
      · simp only [Memory.write, hka, hlt, if_false, ih]

/-! ### LDUR and STUR -/

/-- LDUR's whole effect (R141). -/
theorem exec_ldur (rt rn : Reg) (off : BitVec 9) (s : State) :
    exec (.ldur rt rn off) s = .next (s.result rt (s.mem.read (s.effectiveAddress rn off))) := rfl

/-- STUR's whole effect (R142). -/
theorem exec_stur (rt rn : Reg) (off : BitVec 9) (s : State) :
    exec (.stur rt rn off) s =
      .next ((s.writeMem (s.effectiveAddress rn off) (s.readReg rt)).retire s.nextPc) := rfl

/-- A register result is read back from its register. -/
theorem readReg_result_same (s : State) (r : Reg) (v : Word) : (s.result r v).readReg r = v := by
  rw [State.readReg_result, if_pos rfl]

/-- The effective address depends on the base register alone (R52). -/
theorem effectiveAddress_congr {s t : State} {rn : Reg} (off : BitVec 9)
    (h : t.readReg rn = s.readReg rn) : t.effectiveAddress rn off = s.effectiveAddress rn off := by
  rw [State.effectiveAddress, State.effectiveAddress, h]

/-- A write to another register leaves the effective address. -/
theorem effectiveAddress_result {rd rn : Reg} (h : rn ≠ rd) (s : State) (v : Word) (off : BitVec 9) :
    (s.result rd v).effectiveAddress rn off = s.effectiveAddress rn off :=
  effectiveAddress_congr off (by rw [State.readReg_result, if_neg h])

/-- Settles O45: LDUR's result leaves the memory, and its address when the base is another register, so the
second load reads the same cell; STUR leaves the registers, so the second store writes the same value to the
same key, which `write_write_same` absorbs. -/
theorem accessesHaveNoSideEffects : Obligations.AccessesHaveNoSideEffects := by
  refine ⟨?load, ?store⟩
  case load =>
    intro rt rn off s
    refine ⟨_, exec_ldur rt rn off s, State.result_mem .., fun hne => ⟨_, exec_ldur rt rn off _, ?_, ?_⟩⟩
    · simp only [State.result_mem]
    · simp only [readReg_result_same, State.result_mem, effectiveAddress_result (Ne.symm hne)]
  case store =>
    intro rt rn off s
    refine ⟨_, exec_stur rt rn off s, ?_, fun b hb => ?_, _, exec_stur rt rn off _, ?_⟩
    · rw [State.retire_mem, State.writeMem_mem, Memory.lookup_write, if_pos rfl]
    · rw [State.retire_mem, State.writeMem_mem, Memory.lookup_write, if_neg hb]
    · have hea (a : Key) (v n : Word) :
          ((s.writeMem a v).retire n).effectiveAddress rn off = s.effectiveAddress rn off :=
        effectiveAddress_congr off rfl
      simp only [State.retire_mem, State.writeMem_mem, State.retire_readReg, State.writeMem_readReg, hea,
        write_write_same]

/-! ### The cells after an instruction, a step and a run -/

/-- Every cell after an instruction: what the instruction stores there, else what it held (R22, R60). -/
theorem lookup_of_exec {i : Instr} {s t : State} (h : exec i s = .next t) (a : Key) :
    t.mem.lookup a = (storedAt a (storeOf i s)).or (s.mem.lookup a) := by
  cases effect_of_exec h with
  | register rd v _ hs _ ht => rw [ht, hs, State.result_mem, storedAt_none, Option.none_or]
  | store b v _ hs _ ht =>
    rw [ht, hs, State.retire_mem, State.writeMem_mem, lookup_write_eq_storedAt_or]
  | pcOnly n _ hs _ ht => rw [ht, hs, State.retire_mem, storedAt_none, Option.none_or]
  | halt hi ht =>
    have hs : storeOf i s = none := by rw [hi]; rfl
    rw [ht, hs, State.endRun_mem, State.retire_mem, storedAt_none, Option.none_or]
  | skip rd rn rm hi _ ht =>
    have hs : storeOf i s = none := by rw [hi]; rfl
    rw [ht, hs, State.skipSlot_mem, storedAt_none, Option.none_or]

/-- The step of a decoded instruction stores what the instruction stores. -/
theorem stepStore_of_decode {s : State} {w : InstrWord} {i : Instr} (hr : s.run = .running)
    (hf : s.fetch = .slot (.word w)) (hd : decode w = .instr i) : stepStore s = storeOf i s := by
  simp only [stepStore, hr, hf, hd]

/-- A step that decodes no instruction stores nothing. -/
theorem stepStore_eq_none {s : State}
    (h : ∀ w i, s.fetch = .slot (.word w) → decode w ≠ .instr i) : stepStore s = none := by
  unfold stepStore
  split
  · next w _ hf =>
    split
    · next i hd => exact absurd hd (h w i hf)
    · rfl
  · rfl

/-- Every cell after a step: what the step stores there, else what it held. -/
theorem lookup_of_step {s t : State} (h : step s = .next t) (a : Key) :
    t.mem.lookup a = (storedAt a (stepStore s)).or (s.mem.lookup a) := by
  have frame (hm : t.mem = s.mem) (hn : ∀ w i, s.fetch = .slot (.word w) → decode w ≠ .instr i) :
      t.mem.lookup a = (storedAt a (stepStore s)).or (s.mem.lookup a) := by
    rw [hm, stepStore_eq_none hn, storedAt_none, Option.none_or]
  obtain ⟨hr, hc⟩ := step_cases h
  cases hc with
  | instr w i hf hd he => rw [stepStore_of_decode hr hf hd, lookup_of_exec he]
  | unknown w hf hd ht => exact frame (by rw [ht, State.skipSlot_mem]) (by rintro w' i hf'; cases hf.symm.trans hf'; simp [hd])
  | invalid hf ht => exact frame (by rw [ht, State.skipSlot_mem]) (by simp [hf])
  | exhausted hf ht => exact frame (by rw [ht, State.endRun_mem]) (by simp [hf])
  | fetchFault hf ht => exact frame (by rw [ht, State.endRun_mem]) (by simp [hf])

/-- A run of `k + 1` steps is a step and a run of `k`. -/
theorem runSteps_succ_eq_next {k : Nat} {s t : State} :
    runSteps (k + 1) s = .next t ↔ ∃ u, step s = .next u ∧ runSteps k u = .next t := by
  rw [runSteps]
  cases step s <;> simp

/-- The latest store of a run that starts with a step: the rest's, else the step's own. -/
theorem latestStore_succ {s u : State} (h : step s = .next u) (a : Key) (k : Nat) :
    latestStore a (k + 1) s = (latestStore a k u).or (storedAt a (stepStore s)) := by
  simp only [latestStore, h, storedAt]

/-- Every cell after a run: the latest store to it, else what it held at the start (R61). -/
theorem lookup_of_runSteps {k : Nat} {s t : State} (h : runSteps k s = .next t) (a : Key) :
    t.mem.lookup a = (latestStore a k s).or (s.mem.lookup a) := by
  induction k generalizing s with
  | zero =>
    injection h with h
    rw [latestStore, Option.none_or, h]
  | succ k ih =>
    obtain ⟨u, hstep, hrun⟩ := runSteps_succ_eq_next.1 h
    calc t.mem.lookup a
        = (latestStore a k u).or (u.mem.lookup a) := ih hrun
      _ = (latestStore a k u).or ((storedAt a (stepStore s)).or (s.mem.lookup a)) := by
        rw [lookup_of_step hstep]
      _ = (latestStore a (k + 1) s).or (s.mem.lookup a) := by
        rw [latestStore_succ hstep, Option.or_assoc]

/-- Settles O46: the cells by induction on the run's length (`lookup_of_runSteps`); LDUR reads its cell, or 0
where there is none. -/
theorem loadReturnsTheLatestStore : Obligations.LoadReturnsTheLatestStore := by
  intro k s t h
  refine ⟨lookup_of_runSteps h, fun rt rn off => ⟨_, exec_ldur rt rn off t, ?_⟩⟩
  rw [readReg_result_same, Memory.read, lookup_of_runSteps h]

end Sys2Proof.Proofs

/-!
UNKNOWN words (30_encoding.md R86). The mask test of R83 is the leading-bits test of R80 on every row of
the opcode map, so what the classifier answers is said by the mask test; and the step on an UNKNOWN word
skips its slot.
-/

namespace Sys2Proof.Proofs

open Sys2Proof.Machine

/-! ### The mask test of R83 -/

/-- A mask of the bits from `lo` up, as a number: it clears the bits below `lo`. -/
theorem toNat_and_allOnes_shiftLeft (w : InstrWord) (lo : Nat) :
    (w &&& BitVec.allOnes 32 <<< lo).toNat = w.toNat / 2 ^ lo * 2 ^ lo := by
  have hlt : w.toNat / 2 ^ lo * 2 ^ lo < 2 ^ 32 := (Nat.div_mul_le_self ..).trans_lt w.isLt
  rw [← BitVec.shiftLeft_ushiftRight, BitVec.toNat_shiftLeft, BitVec.toNat_ushiftRight,
    Nat.shiftRight_eq_div_pow, Nat.shiftLeft_eq, Nat.mod_eq_of_lt hlt]

/-- A row's mask holds its leading bits, and its pattern is its code at their place (R83). -/
theorem row_mask_pattern {r : OpcodeRow} (hr : r ∈ opcodeMap) :
    r.mask = BitVec.allOnes 32 <<< (32 - r.length) ∧
      r.pattern.toNat = r.code * 2 ^ (32 - r.length) := by
  revert r; decide

/-- The test of R80 and the test of R83 are the same on every row of the map. -/
theorem matches_iff_and_mask {r : OpcodeRow} (hr : r ∈ opcodeMap) (w : InstrWord) :
    r.matches w = true ↔ w &&& r.mask = r.pattern := by
  obtain ⟨hmask, hpattern⟩ := row_mask_pattern hr
  rw [matches_iff hr, ← BitVec.toNat_inj, hmask, toNat_and_allOnes_shiftLeft, hpattern,
    Nat.mul_left_inj (by positivity)]

/-! ### Decode by the mask test -/

/-- Decode answers UNKNOWN when the classifier answers no row (R80). -/
theorem decode_eq_unknown_iff {w : InstrWord} : decode w = .unknown ↔ classify w = none := by
  rw [decode]
  cases classify w <;> simp

/-- Decode answers UNKNOWN exactly for the words that meet no row's mask test (R86). -/
theorem decode_eq_unknown_iff_and_mask_ne {w : InstrWord} :
    decode w = .unknown ↔ ∀ r ∈ opcodeMap, w &&& r.mask ≠ r.pattern := by
  rw [decode_eq_unknown_iff, classify_eq_none]
  refine forall₂_congr fun r hr => ?_
  rw [← Bool.not_eq_true, matches_iff_and_mask hr]

/-- An instruction decode answers is that of a row whose mask test the word meets. -/
theorem and_mask_of_decode {w : InstrWord} {i : Instr} (h : decode w = .instr i) :
    ∃ r ∈ opcodeMap, w &&& r.mask = r.pattern ∧ i.mnemonic = r.mnemonic := by
  obtain ⟨r, hr, hm, hi⟩ := decode_sound h
  exact ⟨r, hr, (matches_iff_and_mask hr w).1 hm, by rw [hi, instrOf_mnemonic]⟩

/-! ### The step on an UNKNOWN word -/

/-- The step on a fetched UNKNOWN word skips its slot (R186). -/
theorem step_of_decode_unknown {s : State} {w : InstrWord} (hr : s.run = .running)
    (hf : s.fetch = .slot (.word w)) (hd : decode w = .unknown) : step s = .next s.skipSlot := by
  simp only [step, hr, hf, hd, stepUnknown]

/-- What skipping a slot leaves: everything but the pc (R15). -/
theorem skipped_skipSlot (s : State) : Skipped s s.skipSlot :=
  ⟨s.skipSlot_pc, s.skipSlot_readReg, fun _ => congrArg (Memory.lookup · _) s.skipSlot_mem,
    s.skipSlot_icount, s.skipSlot_run, s.skipSlot_cfg⟩

/-- Settles O18: the mask test is the classifier's own test (`matches_iff_and_mask`), so the two clauses on
decode are `classify_eq_none` and `decode_sound` in its terms; the step on an UNKNOWN word is a skipped
one. -/
theorem unmatchedWordsAreUnknownAndDoNotStop : Obligations.UnmatchedWordsAreUnknownAndDoNotStop := by
  refine ⟨fun _ => decode_eq_unknown_iff_and_mask_ne, fun w => ?total, fun s w hr hf hd => ?step⟩
  case total =>
    cases hd : decode w with
    | unknown => exact .inl rfl
    | instr i =>
      obtain ⟨r, hr, hm, hi⟩ := and_mask_of_decode hd
      exact .inr ⟨r, hr, hm, i, rfl, hi⟩
  case step =>
    obtain ⟨hpc, hregs, hcells, -, hrun, -⟩ := skipped_skipSlot s
    exact ⟨_, step_of_decode_unknown hr hf hd, hregs, hcells, hrun.trans hr, hpc⟩

end Sys2Proof.Proofs

/-!
The branches' place in the instruction stream (44_branch.md R150, R154). A branch is a `retire` at the
target or at pc + 4 and nothing more, and a retired state fetches at its new pc in the same image.
-/

namespace Sys2Proof.Proofs

open Sys2Proof.Machine

/-! ### The whole effect of each branch -/

/-- B's whole effect (R151). -/
theorem exec_b (off : BitVec 26) (s : State) :
    exec (.b off) s = .next (s.retire (s.branchTarget off)) := rfl

/-- CBZ's whole effect (R152): `branchIf` retires at its own pc, which `branchIf_zeroTest_pc` gives. -/
theorem exec_cbz (rt : Reg) (off : BitVec 19) (s : State) :
    exec (.cbz rt off) s =
      .next (s.retire (if s.readReg rt = 0#64 then s.branchTarget off else s.pc + 4#64)) :=
  congrArg (fun n => (.next (s.retire n) : StepOutcome)) (branchIf_zeroTest_pc s (s.readReg rt) off).1

/-- CBNZ's whole effect (R153), as CBZ's with the two ways exchanged. -/
theorem exec_cbnz (rt : Reg) (off : BitVec 19) (s : State) :
    exec (.cbnz rt off) s =
      .next (s.retire (if s.readReg rt = 0#64 then s.pc + 4#64 else s.branchTarget off)) :=
  congrArg (fun n => (.next (s.retire n) : StepOutcome)) (branchIf_zeroTest_pc s (s.readReg rt) off).2

/-! ### The slot fetched next -/

/-- The step on a fetched word that decodes to an instruction runs the instruction (R36). -/
theorem step_of_decode_instr {s : State} {w : InstrWord} {i : Instr} (hr : s.run = .running)
    (hf : s.fetch = .slot (.word w)) (hd : decode w = .instr i) : step s = exec i s := by
  simp only [step, hr, hf, hd]

/-- A retired state fetches at its new pc, in the same image (R27, R36). -/
theorem fetch_retire (s : State) (next : Word) :
    (s.retire next).fetch = fetchAt s.cfg.image next := by
  rw [State.fetch, State.retire_cfg, State.retire_pc]

/-- After the step of an instruction that only retires at `next`, the run goes on with the slot fetched
there. -/
theorem next_fetch_of_exec_eq_retire {s : State} {w : InstrWord} {i : Instr} {next : Word}
    (hr : s.run = .running) (hf : s.fetch = .slot (.word w)) (hd : decode w = .instr i)
    (he : exec i s = .next (s.retire next)) :
    ∃ t, step s = .next t ∧ t.run = .running ∧ t.fetch = fetchAt s.cfg.image next :=
  ⟨_, (step_of_decode_instr hr hf hd).trans he, (s.retire_run next).trans hr, fetch_retire s next⟩

/-- Settles O48: each branch only retires, at its target when taken and else at pc + 4, and the next slot is
the one fetched there. -/
theorem branchesHaveNoDelaySlot : Obligations.BranchesHaveNoDelaySlot := by
  refine ⟨fun s w off hr hf hd => ?b, fun s w rt off hr hf hd => ?cbz, fun s w rt off hr hf hd => ?cbnz⟩
  case b => exact next_fetch_of_exec_eq_retire hr hf hd (exec_b off s)
  case cbz => exact next_fetch_of_exec_eq_retire hr hf hd (exec_cbz rt off s)
  case cbnz => exact next_fetch_of_exec_eq_retire hr hf hd (exec_cbnz rt off s)

end Sys2Proof.Proofs

/-!
Decode and encode (30_encoding.md R80 to R88, R98). No row's code begins another row's, so a word that meets
a row's test decodes by that row; and a word is its row's pattern, its operand fields and its ignored fields,
one beside the other, so encoding what decode reads gives the word back but for the ignored fields.
-/

namespace Sys2Proof.Proofs

open Sys2Proof.Machine Sys2Proof.Laws

/-! ### At most one row matches a word (R81) -/

/-- A row whose code begins another row's code is that row. -/
theorem row_eq_of_code_begins {r q : OpcodeRow} (hr : r ∈ opcodeMap) (hq : q ∈ opcodeMap)
    (hlen : r.length ≤ q.length) (hcode : q.code / 2 ^ (q.length - r.length) = r.code) : r = q := by
  have h : ∀ r ∈ opcodeMap, ∀ q ∈ opcodeMap, r.length ≤ q.length →
      q.code / 2 ^ (q.length - r.length) = r.code → r = q := by decide
  exact h r hr q hq hlen hcode

/-- No row has more than 32 leading bits, nor fewer than 6. -/
theorem row_length_bounds {r : OpcodeRow} (hr : r ∈ opcodeMap) : 6 ≤ r.length ∧ r.length ≤ 32 := by
  revert r; decide

/-- A matched row's code begins with the word's leading bits, however few of them are taken. -/
theorem leading_code_of_matches {r : OpcodeRow} {w : InstrWord} (hr : r ∈ opcodeMap)
    (hm : r.matches w = true) {n : Nat} (hn : n ≤ r.length) :
    r.code / 2 ^ (r.length - n) = w.toNat / 2 ^ (32 - n) := by
  have hlen := (row_length_bounds hr).2
  rw [← (matches_iff hr w).1 hm, Nat.div_div_eq_div_mul, ← Nat.pow_add]
  congr 2
  omega

/-- The shorter of two rows that match a word is the longer one. -/
theorem row_eq_of_matches_of_length_le {r q : OpcodeRow} {w : InstrWord} (hr : r ∈ opcodeMap)
    (hq : q ∈ opcodeMap) (hmr : r.matches w = true) (hmq : q.matches w = true)
    (hlen : r.length ≤ q.length) : r = q :=
  row_eq_of_code_begins hr hq hlen
    ((leading_code_of_matches hq hmq hlen).trans ((matches_iff hr w).1 hmr))

/-- Settles O4: of two rows that match, the one with fewer leading bits begins the other's code,
which no row's code does but its own. -/
theorem atMostOneRowMatchesAWord : Obligations.AtMostOneRowMatchesAWord := by
  intro w r q hr hq hmr hmq
  rcases Nat.le_total r.length q.length with hlen | hlen
  · exact row_eq_of_matches_of_length_le hr hq hmr hmq hlen
  · exact (row_eq_of_matches_of_length_le hq hr hmq hmr hlen).symm

/-! ### Decode by a row that matches -/

/-- The classifier answers the row that matches. -/
theorem classify_of_matches {r : OpcodeRow} {w : InstrWord} (hr : r ∈ opcodeMap)
    (hm : r.matches w = true) : classify w = some r := by
  cases hc : classify w with
  | none => exact absurd hm (by simp [classify_eq_none.1 hc r hr])
  | some q =>
    obtain ⟨hq, hmq⟩ := classify_sound hc
    rw [atMostOneRowMatchesAWord w q r hq hr hmq hm]

/-- A word that meets a row's mask test decodes by that row (R83). -/
theorem decode_of_and_mask {r : OpcodeRow} {w : InstrWord} (hr : r ∈ opcodeMap)
    (hw : w &&& r.mask = r.pattern) : decode w = .instr (instrOf r.mnemonic w) := by
  simp only [decode, classify_of_matches hr ((matches_iff_and_mask hr w).2 hw)]

/-- What decode answers: the instruction of a row whose mask test the word meets. -/
theorem decode_eq_instr {w : InstrWord} {i : Instr} (h : decode w = .instr i) :
    ∃ r ∈ opcodeMap, w &&& r.mask = r.pattern ∧ i = instrOf r.mnemonic w := by
  obtain ⟨r, hr, hm, hi⟩ := decode_sound h
  exact ⟨r, hr, (matches_iff_and_mask hr w).1 hm, hi⟩

/-! ### The operands of an encoded instruction -/

/-- The word of every instruction matches the row that carries its mnemonic (R98). -/
theorem encodesInItsRow (i : Instr) : EncodesInItsRow.Statement i := by
  cases i with
  | add => exact EncodesInItsRow.add ..
  | sub => exact EncodesInItsRow.sub ..
  | and => exact EncodesInItsRow.and ..
  | orr => exact EncodesInItsRow.orr ..
  | eor => exact EncodesInItsRow.eor ..
  | addi => exact EncodesInItsRow.addi ..
  | subi => exact EncodesInItsRow.subi ..
  | lsl => exact EncodesInItsRow.lsl ..
  | lsr => exact EncodesInItsRow.lsr ..
  | asr => exact EncodesInItsRow.asr ..
  | ldur => exact EncodesInItsRow.ldur ..
  | stur => exact EncodesInItsRow.stur ..
  | b => exact EncodesInItsRow.b ..
  | cbz => exact EncodesInItsRow.cbz ..
  | cbnz => exact EncodesInItsRow.cbnz ..
  | movz => exact EncodesInItsRow.movz ..
  | movk => exact EncodesInItsRow.movk ..
  | nop => exact EncodesInItsRow.nop
  | brk => exact EncodesInItsRow.brk

/-- Format R's operands stand in its word (R71). -/
theorem fields_encodeR (c : BitVec 11) (rd rn rm : Reg) :
    fieldRd (encodeR c rd rn rm) = rd ∧ fieldRn (encodeR c rd rn rm) = rn ∧
      fieldRm (encodeR c rd rn rm) = rm := by
  simp [encodeR, fieldRd, fieldRn, fieldRm, bits_place, bits_place_above, bits_place_below]

/-- Format I's operands stand in its word (R72). -/
theorem fields_encodeI (c : BitVec 10) (rd rn : Reg) (imm : BitVec 12) :
    fieldRd (encodeI c rd rn imm) = rd ∧ fieldRn (encodeI c rd rn imm) = rn ∧
      fieldImm (encodeI c rd rn imm) = imm := by
  simp [encodeI, fieldRd, fieldRn, fieldImm, bits_place, bits_place_above, bits_place_below]

/-- Format SHIFT's operands stand in its word (R77). -/
theorem fields_encodeShift (c : BitVec 11) (rd rn : Reg) (shamt : BitVec 6) :
    fieldRd (encodeShift c rd rn shamt) = rd ∧ fieldRn (encodeShift c rd rn shamt) = rn ∧
      fieldShamt (encodeShift c rd rn shamt) = shamt := by
  simp [encodeShift, fieldRd, fieldRn, fieldShamt, bits_place, bits_place_above, bits_place_below]

/-- Format D's operands stand in its word (R73). -/
theorem fields_encodeD (c : BitVec 11) (rt rn : Reg) (off : BitVec 9) :
    fieldRd (encodeD c rt rn off) = rt ∧ fieldRn (encodeD c rt rn off) = rn ∧
      fieldOffsetD (encodeD c rt rn off) = off := by
  simp [encodeD, fieldRd, fieldRn, fieldOffsetD, bits_place, bits_place_above, bits_place_below]

/-- Format B's operand stands in its word (R74). -/
theorem fields_encodeB (c : BitVec 6) (off : BitVec 26) : fieldOffsetB (encodeB c off) = off := by
  simp [encodeB, fieldOffsetB, bits_place, bits_place_below]

/-- Format CB's operands stand in its word (R75). -/
theorem fields_encodeCB (c : BitVec 8) (rt : Reg) (off : BitVec 19) :
    fieldRd (encodeCB c rt off) = rt ∧ fieldOffsetCB (encodeCB c rt off) = off := by
  simp [encodeCB, fieldRd, fieldOffsetCB, bits_place, bits_place_above, bits_place_below]

/-- Format IM's operands stand in its word (R76). -/
theorem fields_encodeIM (c : BitVec 9) (rd : Reg) (field : BitVec 16) (hw : BitVec 2) :
    fieldRd (encodeIM c rd field hw) = rd ∧ fieldImm16 (encodeIM c rd field hw) = field ∧
      fieldHw (encodeIM c rd field hw) = hw := by
  simp [encodeIM, fieldRd, fieldImm16, fieldHw, bits_place, bits_place_above, bits_place_below]

/-- The operands read from an instruction's word are the instruction's. -/
theorem instrOf_encode (i : Instr) : instrOf i.mnemonic (encode i) = i := by
  cases i with
  | add | sub | and | orr | eor => simp only [Instr.mnemonic, encode, instrOf, fields_encodeR]
  | addi | subi => simp only [Instr.mnemonic, encode, instrOf, fields_encodeI]
  | lsl | lsr | asr => simp only [Instr.mnemonic, encode, instrOf, fields_encodeShift]
  | ldur | stur => simp only [Instr.mnemonic, encode, instrOf, fields_encodeD]
  | b => simp only [Instr.mnemonic, encode, instrOf, fields_encodeB]
  | cbz | cbnz => simp only [Instr.mnemonic, encode, instrOf, fields_encodeCB]
  | movz | movk => simp only [Instr.mnemonic, encode, instrOf, fields_encodeIM]
  | nop | brk => rfl

/-- Settles O1: an instruction's word matches its own row, by which it then decodes, and its operands are
read back from where they were placed. -/
theorem decodeOfEncodeIsTheInstruction : Obligations.DecodeOfEncodeIsTheInstruction := by
  intro i
  obtain ⟨r, hr, hri, -, hm⟩ := encodesInItsRow i
  rw [decode_of_and_mask hr ((matches_iff_and_mask hr _).1 hm), hri, instrOf_encode]

/-! ### The word of a decoded instruction -/

/-- The bits of a word that hold one field. -/
def fieldMask (lo len : Nat) : InstrWord := place (BitVec.allOnes len) lo

/-- A field put back at its place is the word under the field's mask. -/
theorem place_bits (w : InstrWord) (lo len : Nat) :
    place (bits w lo len) lo = w &&& fieldMask lo len := by
  refine BitVec.eq_of_getLsbD_eq fun i hi => ?_
  simp only [fieldMask, BitVec.getLsbD_and, getLsbD_place, getLsbD_bits, BitVec.getLsbD_allOnes]
  by_cases hlo : lo ≤ i
  · simp [hi, hlo, Nat.add_sub_cancel' hlo, Bool.and_comm]
  · simp [hlo]

/-- A row's leading bits and its format's ignored fields have no bit in common. -/
theorem row_masks_disjoint {r : OpcodeRow} (hr : r ∈ opcodeMap) :
    ~~~r.mnemonic.format.ignoredMask &&& r.mask = r.mask ∧
      r.mnemonic.format.ignoredMask &&& r.mask = 0#32 ∧
      r.mask ||| ~~~(r.mask ||| r.mnemonic.format.ignoredMask) = ~~~r.mnemonic.format.ignoredMask := by
  revert r; decide

/-- The word of the instruction a row reads from a word: the row's pattern, and the word's own bits outside
the row's leading bits and the ignored fields. -/
theorem encode_instrOf {r : OpcodeRow} (hr : r ∈ opcodeMap) (w : InstrWord) :
    encode (instrOf r.mnemonic w) =
      r.pattern ||| (w &&& ~~~(r.mask ||| r.mnemonic.format.ignoredMask)) := by
  simp only [opcodeMap, wholeWordRows, leadingBitRows, List.cons_append, List.nil_append,
    List.mem_cons, List.not_mem_nil, or_false] at hr
  rcases hr with rfl | rfl | hr
  · simp [instrOf, encode, Mnemonic.format, Format.ignoredMask]
  · simp [instrOf, encode, Mnemonic.format, Format.ignoredMask]
  rcases hr with rfl | rfl | rfl | rfl | rfl | rfl | rfl | rfl | rfl | rfl | rfl | rfl | rfl | rfl |
    rfl | rfl | rfl
  all_goals
    simp only [instrOf, encode, encodeR, encodeI, encodeShift, encodeD, encodeB, encodeCB, encodeIM,
      fieldRd, fieldRn, fieldRm, fieldShamt, fieldImm, fieldOffsetD, fieldOffsetB, fieldOffsetCB,
      fieldImm16, fieldHw, place_bits, BitVec.or_assoc, ← BitVec.and_or_distrib_left]
    rfl

/-- Settles O2: a decoded word is its row's pattern under the row's mask, so the instruction's word differs
from it in the ignored fields alone. -/
theorem encodeOfDecodeClearsOnlyIgnoredBits : Obligations.EncodeOfDecodeClearsOnlyIgnoredBits := by
  intro w i h
  obtain ⟨r, hr, hw, rfl⟩ := decode_eq_instr h
  obtain ⟨-, -, hcover⟩ := row_masks_disjoint hr
  rw [encode_instrOf hr, ← hw, ← BitVec.and_or_distrib_left, hcover, instrOf_mnemonic]

/-- A word with its ignored fields replaced. -/
def replaceIgnored (m w v : InstrWord) : InstrWord := (w &&& ~~~m) ||| (v &&& m)

/-- What is left of the two words under any mask. -/
theorem replaceIgnored_and (m w v c : InstrWord) :
    replaceIgnored m w v &&& c = (w &&& (~~~m &&& c)) ||| (v &&& (m &&& c)) := by
  rw [replaceIgnored, BitVec.and_comm, BitVec.and_or_distrib_left, BitVec.and_comm, BitVec.and_assoc,
    BitVec.and_comm c, BitVec.and_assoc]

/-- Equal words are of equal instructions. -/
theorem encode_injective {i j : Instr} (h : encode i = encode j) : i = j := by
  have hi := decodeOfEncodeIsTheInstruction i
  rw [h, decodeOfEncodeIsTheInstruction j] at hi
  exact (Decoded.instr.inj hi).symm

/-- Settles O3: the changed word meets the same row's test, so it decodes to an instruction of that row; by O2
the two instructions have one word, and a word is that of one instruction only. -/
theorem ignoredBitsNeverChangeTheDecode : Obligations.IgnoredBitsNeverChangeTheDecode := by
  intro w v i h
  obtain ⟨r, hr, hw, hi⟩ := decode_eq_instr h
  obtain ⟨hkeep, hclear, -⟩ := row_masks_disjoint hr
  have hri : i.mnemonic = r.mnemonic := by rw [hi, instrOf_mnemonic]
  rw [← hri] at hkeep hclear
  let w' := replaceIgnored i.mnemonic.format.ignoredMask w v
  have hmask : w' &&& r.mask = r.pattern := by
    rw [replaceIgnored_and, hkeep, hclear, BitVec.and_zero, BitVec.or_zero, hw]
  have hd : decode w' = .instr (instrOf r.mnemonic w') := decode_of_and_mask hr hmask
  have hword : encode (instrOf r.mnemonic w') = encode i := by
    rw [encodeOfDecodeClearsOnlyIgnoredBits w' _ hd, encodeOfDecodeClearsOnlyIgnoredBits w i h,
      instrOf_mnemonic, ← hri, replaceIgnored_and]
    simp only [BitVec.and_self, BitVec.and_not_self, BitVec.and_zero, BitVec.or_zero,
      BitVec.ofNat_eq_ofNat]
  exact hd.trans (congrArg Decoded.instr (encode_injective hword))

/-! ### The order of the rows (R80) -/

/-- Settles O5: the classifier's first two rows hold for one word each, and its test of the others is the
leading bits as a quotient. -/
theorem decodeFollowsTheClassifier : Obligations.DecodeFollowsTheClassifier := by
  intro w
  by_cases hnop : w = 0x00000000#32
  · rw [if_pos hnop, hnop]; decide
  by_cases hbrk : w = 0xFEDEFFE7#32
  · rw [if_neg hnop, if_pos hbrk, hbrk]; decide
  rw [if_neg hnop, if_neg hbrk]
  have hwhole : wholeWordRows.find? (·.matches w) = none := by
    rw [List.find?_eq_none]
    intro r hr
    rw [matches_iff_and_mask (List.mem_append_left _ hr)]
    simp only [wholeWordRows, List.mem_cons, List.not_mem_nil, or_false] at hr
    rcases hr with rfl | rfl
    · exact fun h => hnop (BitVec.and_allOnes.symm.trans h)
    · exact fun h => hbrk (BitVec.and_allOnes.symm.trans h)
  have hclassify : classify w =
      leadingBitRows.find? (fun r => w.toNat / 2 ^ (32 - r.length) == r.code) := by
    rw [classify, opcodeMap, List.find?_append, hwhole, Option.none_or]
    refine List.find?_congr fun r hr => ?_
    rw [Bool.eq_iff_iff, matches_iff (List.mem_append_right _ hr), beq_iff_eq]
  cases hrow : leadingBitRows.find? (fun r => w.toNat / 2 ^ (32 - r.length) == r.code) with
  | none => simp only [decode, hclassify.trans hrow]
  | some r => simp only [decode, hclassify.trans hrow]

/-! ### NOP and BREAK (R84, R85) -/

/-- An instruction whose format has no ignored field is decoded from its own word alone. -/
theorem decode_eq_instr_iff {i : Instr} (h : i.mnemonic.format.ignoredMask = 0#32) (w : InstrWord) :
    decode w = .instr i ↔ w = encode i := by
  constructor
  · intro hd
    rw [encodeOfDecodeClearsOnlyIgnoredBits w i hd, h, BitVec.not_zero, BitVec.and_allOnes]
  · rintro rfl
    exact decodeOfEncodeIsTheInstruction i

/-- BREAK is decoded from its one word (R85). -/
theorem decode_eq_brk_iff (w : InstrWord) : decode w = .instr .brk ↔ w = 0xFEDEFFE7#32 :=
  decode_eq_instr_iff rfl w

/-- A row that matches a word whose top six bits are 0 is NOP's, all of whose 32 bits are 0 (R84). -/
theorem eq_zero_of_matches {r : OpcodeRow} {w : InstrWord} (hr : r ∈ opcodeMap)
    (hm : r.matches w = true) (htop : w.toNat / 2 ^ 26 = 0) : w = 0#32 := by
  have hzero : ∀ r ∈ opcodeMap, r.code / 2 ^ (r.length - 6) = 0 → r.length = 32 ∧ r.code = 0 := by
    decide
  have hcode := (leading_code_of_matches hr hm (row_length_bounds hr).1).trans htop
  obtain ⟨hlen, h0⟩ := hzero r hr hcode
  have := (matches_iff hr w).1 hm
  rw [hlen, h0] at this
  exact BitVec.eq_of_toNat_eq (by simpa using this)

/-- Settles O6: NOP's and BREAK's formats have no ignored field, and of the rows only NOP's leading bits begin
with six zeros. -/
theorem nopAndBreakAreSingleWords : Obligations.NopAndBreakAreSingleWords := by
  refine ⟨decode_eq_instr_iff rfl, decode_eq_brk_iff, fun w htop hne => ?_, by decide⟩
  rw [decode_eq_unknown_iff, classify_eq_none]
  exact fun r hr => Bool.eq_false_iff.2 fun hm => hne (eq_zero_of_matches hr hm htop)

/-! ### Each field at its bits (R71 to R77, R79) -/

/-- `rd` as a number (R79). -/
theorem toNat_fieldRd (w : InstrWord) : (fieldRd w).toNat = w.toNat % 2 ^ 5 := by
  rw [fieldRd, toNat_bits, Nat.pow_zero, Nat.div_one]

/-- The format B offset as a number (R79). -/
theorem toNat_fieldOffsetB (w : InstrWord) : (fieldOffsetB w).toNat = w.toNat % 2 ^ 26 := by
  rw [fieldOffsetB, toNat_bits, Nat.pow_zero, Nat.div_one]

/-- Settles O7: a word that meets a row's mask test decodes by that row, whose operands are slices of the
word. -/
theorem decodeReadsEachFieldAtItsBits : Obligations.DecodeReadsEachFieldAtItsBits := by
  refine ⟨?r, ?i, ?shift, ?d, ?b, ?cb, ?im⟩
  case r =>
    intro p hp w hw
    refine ⟨fieldRd w, fieldRn w, fieldRm w, ?_, toNat_fieldRd w, toNat_bits .., toNat_bits ..⟩
    simp only [List.mem_cons, List.not_mem_nil, or_false] at hp
    rcases hp with rfl | rfl | rfl | rfl | rfl
    · exact decode_of_and_mask (r := opcodeMap[2]) (by decide) hw
    · exact decode_of_and_mask (r := opcodeMap[3]) (by decide) hw
    · exact decode_of_and_mask (r := opcodeMap[4]) (by decide) hw
    · exact decode_of_and_mask (r := opcodeMap[5]) (by decide) hw
    · exact decode_of_and_mask (r := opcodeMap[6]) (by decide) hw
  case i =>
    intro p hp w hw
    refine ⟨fieldRd w, fieldRn w, fieldImm w, ?_, toNat_fieldRd w, toNat_bits .., toNat_bits ..⟩
    simp only [List.mem_cons, List.not_mem_nil, or_false] at hp
    rcases hp with rfl | rfl
    · exact decode_of_and_mask (r := opcodeMap[7]) (by decide) hw
    · exact decode_of_and_mask (r := opcodeMap[8]) (by decide) hw
  case shift =>
    intro p hp w hw
    refine ⟨fieldRd w, fieldRn w, fieldShamt w, ?_, toNat_fieldRd w, toNat_bits .., toNat_bits ..⟩
    simp only [List.mem_cons, List.not_mem_nil, or_false] at hp
    rcases hp with rfl | rfl | rfl
    · exact decode_of_and_mask (r := opcodeMap[9]) (by decide) hw
    · exact decode_of_and_mask (r := opcodeMap[10]) (by decide) hw
    · exact decode_of_and_mask (r := opcodeMap[11]) (by decide) hw
  case d =>
    intro p hp w hw
    refine ⟨fieldRd w, fieldRn w, fieldOffsetD w, ?_, toNat_fieldRd w, toNat_bits .., toNat_bits ..⟩
    simp only [List.mem_cons, List.not_mem_nil, or_false] at hp
    rcases hp with rfl | rfl
    · exact decode_of_and_mask (r := opcodeMap[12]) (by decide) hw
    · exact decode_of_and_mask (r := opcodeMap[13]) (by decide) hw
  case b =>
    intro w hw
    exact ⟨fieldOffsetB w, decode_of_and_mask (r := opcodeMap[14]) (by decide) hw,
      toNat_fieldOffsetB w⟩
  case cb =>
    intro p hp w hw
    refine ⟨fieldRd w, fieldOffsetCB w, ?_, toNat_fieldRd w, toNat_bits ..⟩
    simp only [List.mem_cons, List.not_mem_nil, or_false] at hp
    rcases hp with rfl | rfl
    · exact decode_of_and_mask (r := opcodeMap[15]) (by decide) hw
    · exact decode_of_and_mask (r := opcodeMap[16]) (by decide) hw
  case im =>
    intro p hp w hw
    refine ⟨fieldRd w, fieldImm16 w, fieldHw w, ?_, toNat_fieldRd w, toNat_bits .., toNat_bits ..⟩
    simp only [List.mem_cons, List.not_mem_nil, or_false] at hp
    rcases hp with rfl | rfl
    · exact decode_of_and_mask (r := opcodeMap[17]) (by decide) hw
    · exact decode_of_and_mask (r := opcodeMap[18]) (by decide) hw

/-- Settles O8: the 31 words are closed terms, and decode evaluates on each. -/
theorem writtenOutWordsDecode : Obligations.WrittenOutWordsDecode := by
  refine ⟨?vectors, ?examples⟩
  case vectors => decide
  case examples => decide

/-! ### The layouts (R71 to R78) -/

/-- The spans stand one below the other and take exactly the bits below `n`. -/
def Tiles : Nat → List FieldSpan → Prop
  | n, [] => n = 0
  | n, f :: fs => f.hi + 1 = n ∧ f.lo ≤ f.hi ∧ Tiles f.lo fs

/-- The widths of spans that tile `n` bits sum to `n`. -/
theorem Tiles.sum_width {n : Nat} {fs : List FieldSpan} (h : Tiles n fs) :
    (fs.map (·.width)).sum = n := by
  induction fs generalizing n with
  | nil => exact h.symm
  | cons f fs ih =>
    obtain ⟨htop, hle, hrest⟩ := h
    rw [List.map_cons, List.sum_cons, ih hrest, FieldSpan.width]
    omega

/-- The fields of spans that tile the low `n` bits of a word make those bits up. -/
theorem Tiles.sum_fields {n : Nat} {fs : List FieldSpan} (h : Tiles n fs) (w : InstrWord) :
    (fs.map fun f => (bits w f.lo f.width).toNat * 2 ^ f.lo).sum = w.toNat % 2 ^ n := by
  induction fs generalizing n with
  | nil => subst h; rw [List.map_nil, List.sum_nil, Nat.pow_zero, Nat.mod_one]
  | cons f fs ih =>
    obtain ⟨htop, hle, hrest⟩ := h
    have hn : n = f.lo + f.width := by rw [FieldSpan.width]; omega
    calc ((f :: fs).map fun f => (bits w f.lo f.width).toNat * 2 ^ f.lo).sum
        = w.toNat / 2 ^ f.lo % 2 ^ f.width * 2 ^ f.lo + w.toNat % 2 ^ f.lo := by
          rw [List.map_cons, List.sum_cons, ih hrest, toNat_bits]
      _ = w.toNat % 2 ^ n := by rw [hn, Nat.pow_add, Nat.mod_mul]; ring

/-- Every format but UNKNOWN's has a layout that tiles the word. -/
theorem tiles_layout {fmt : Format} (h : fmt ≠ .unknown) : Tiles 32 fmt.layout := by
  cases fmt <;> simp [Format.layout, Tiles] at h ⊢

/-- Settles O9: each layout tiles the 32 bits of a word. -/
theorem fieldsPartitionTheWord : Obligations.FieldsPartitionTheWord := by
  intro fmt w h
  refine ⟨(tiles_layout h).sum_width, ?_⟩
  rw [(tiles_layout h).sum_fields, Nat.mod_eq_of_lt w.isLt]

end Sys2Proof.Proofs

/-!
The operand values (30_encoding.md R79, 44_branch.md R150): what each operand form makes of its field.
-/

namespace Sys2Proof.Proofs

open Sys2Proof.Machine

/-- A branch displacement is exactly four times the signed offset: no bit of the offset is lost (R79). -/
theorem toInt_displacement {n : Nat} (off : BitVec n) (h : n ≤ 62) :
    (displacement off).toInt = off.toInt * 4 := by
  have hpow : (2 : Int) ^ (n - 1) ≤ 2 ^ 61 := pow_le_pow_right₀ (by norm_num) (by omega)
  have hlo := off.le_toInt
  have hhi := off.toInt_lt
  rw [displacement, BitVec.toInt_mul, toInt_sext off (by omega), show (4#64).toInt = 4 from rfl]
  exact Int.bmod_eq_of_le (by norm_num; omega) (by norm_num; omega)

/-- The format I immediate keeps its signed value (R79). -/
theorem toInt_immOperand (imm : BitVec 12) : (immOperand imm).toInt = imm.toInt :=
  toInt_sext imm (by decide)

/-- The format D offset keeps its unsigned value (R79). -/
theorem toNat_offsetOperand (off : BitVec 9) : (offsetOperand off).toNat = off.toNat :=
  toNat_zext off (by decide)

/-- Settles O11: sign extension keeps the signed value and zero extension the unsigned one, four times a
branch offset fits in a word, and the ranges are those of the fields' widths. -/
theorem operandValuesAndRanges : Obligations.OperandValuesAndRanges := by
  refine ⟨fun imm => ?imm, fun off => ?offsetD, fun off => ?offsetB, fun off => ?offsetCB,
    fun field => toNat_zext field (by decide), fun shamt => toNat_zext shamt (by decide),
    fun hw => ⟨Nat.mul_comm .., by revert hw; decide⟩⟩
  case imm =>
    have hlo := imm.le_toInt
    have hhi := imm.toInt_lt
    rw [toInt_immOperand]
    omega
  case offsetD =>
    have := off.isLt
    rw [toNat_offsetOperand]
    omega
  case offsetB =>
    have hlo := off.le_toInt
    have hhi := off.toInt_lt
    rw [toInt_displacement off (by decide)]
    omega
  case offsetCB =>
    have hlo := off.le_toInt
    have hhi := off.toInt_lt
    rw [toInt_displacement off (by decide)]
    omega

end Sys2Proof.Proofs

/-!
Lines and instructions (30_encoding.md R96, R98). Each operand of a line in range is the number of one field
and each field's number is in range, so the line and the instruction are rebuilt from each other.
-/

namespace Sys2Proof.Proofs

open Sys2Proof.Machine

/-! ### Fields are in range -/

@[simp] theorem regInRange_toNat (r : Reg) : regInRange r.toNat = true := decide_eq_true r.isLt

@[simp] theorem shamtInRange_toNat (v : BitVec 6) : shamtInRange v.toNat = true :=
  decide_eq_true v.isLt

@[simp] theorem offsetDInRange_toNat (v : BitVec 9) : offsetDInRange v.toNat = true :=
  decide_eq_true v.isLt

@[simp] theorem fieldInRange_toNat (v : BitVec 16) : fieldInRange v.toNat = true :=
  decide_eq_true v.isLt

@[simp] theorem imShiftInRange_toNat (hw : BitVec 2) : imShiftInRange (hw.toNat * 16) = true := by
  revert hw; decide

@[simp] theorem immInRange_toInt (v : BitVec 12) : immInRange v.toInt = true := by
  have hlo := v.le_toInt
  have hhi := v.toInt_lt
  simp only [immInRange, Bool.and_eq_true, decide_eq_true_eq]
  omega

@[simp] theorem offsetBInRange_toInt (v : BitVec 26) : offsetBInRange v.toInt = true := by
  have hlo := v.le_toInt
  have hhi := v.toInt_lt
  simp only [offsetBInRange, Bool.and_eq_true, decide_eq_true_eq]
  omega

@[simp] theorem offsetCBInRange_toInt (v : BitVec 19) : offsetCBInRange v.toInt = true := by
  have hlo := v.le_toInt
  have hhi := v.toInt_lt
  simp only [offsetCBInRange, Bool.and_eq_true, decide_eq_true_eq]
  omega

/-! ### From an instruction to its line and back -/

/-- The line of an instruction is well formed. -/
theorem wellFormed_disassemble (i : Instr) : (disassemble i).wellFormed = true := by
  cases i <;> simp [disassemble, AsmLine.wellFormed, Mnemonic.format]

@[simp] theorem regField_toNat (r : Reg) : regField r.toNat = r := by
  rw [regField, BitVec.ofNat_toNat, BitVec.setWidth_eq]

/-- The line of an instruction is read as that instruction. -/
theorem assembleInRange_disassemble (i : Instr) : assembleInRange (disassemble i) = some i := by
  cases i <;> simp [disassemble, assembleInRange]

/-! ### From a line to its instruction and back -/

theorem toNat_regField {i : Nat} (h : regInRange i = true) : (regField i).toNat = i :=
  Nat.mod_eq_of_lt (of_decide_eq_true h)

theorem toNat_ofNat_shamt {v : Nat} (h : shamtInRange v = true) : (BitVec.ofNat 6 v).toNat = v :=
  Nat.mod_eq_of_lt (of_decide_eq_true h)

theorem toNat_ofNat_offsetD {v : Nat} (h : offsetDInRange v = true) : (BitVec.ofNat 9 v).toNat = v :=
  Nat.mod_eq_of_lt (of_decide_eq_true h)

theorem toNat_ofNat_field {v : Nat} (h : fieldInRange v = true) : (BitVec.ofNat 16 v).toNat = v :=
  Nat.mod_eq_of_lt (of_decide_eq_true h)

theorem toNat_ofNat_imShift {v : Nat} (h : imShiftInRange v = true) :
    (BitVec.ofNat 2 (v / 16)).toNat * 16 = v := by
  simp only [imShiftInRange, Bool.or_eq_true, beq_iff_eq] at h
  rw [BitVec.toNat_ofNat]
  omega

theorem toInt_ofInt_imm {v : Int} (h : immInRange v = true) : (BitVec.ofInt 12 v).toInt = v := by
  simp only [immInRange, Bool.and_eq_true, decide_eq_true_eq] at h
  exact BitVec.toInt_ofInt_eq_self (by decide) (by omega) (by omega)

theorem toInt_ofInt_offsetB {v : Int} (h : offsetBInRange v = true) :
    (BitVec.ofInt 26 v).toInt = v := by
  simp only [offsetBInRange, Bool.and_eq_true, decide_eq_true_eq] at h
  exact BitVec.toInt_ofInt_eq_self (by decide) (by omega) (by omega)

theorem toInt_ofInt_offsetCB {v : Int} (h : offsetCBInRange v = true) :
    (BitVec.ofInt 19 v).toInt = v := by
  simp only [offsetCBInRange, Bool.and_eq_true, decide_eq_true_eq] at h
  exact BitVec.toInt_ofInt_eq_self (by decide) (by omega) (by omega)

/-- A well-formed line stands for an instruction, and is that instruction's line. -/
theorem exists_assembleInRange {l : AsmLine} (h : l.wellFormed = true) :
    ∃ i, assembleInRange l = some i ∧ disassemble i = l := by
  cases l with
  | r m rd rn rm =>
    simp only [AsmLine.wellFormed, Bool.and_eq_true] at h
    obtain ⟨⟨⟨hm, hrd⟩, hrn⟩, hrm⟩ := h
    cases m with
    | add | sub | and | orr | eor =>
      exact ⟨_, rfl, by simp only [disassemble, toNat_regField, hrd, hrn, hrm]⟩
    | _ => exact absurd hm (by decide)
  | i m rd rn imm =>
    simp only [AsmLine.wellFormed, Bool.and_eq_true] at h
    obtain ⟨⟨⟨hm, hrd⟩, hrn⟩, himm⟩ := h
    cases m with
    | addi | subi =>
      exact ⟨_, rfl, by simp only [disassemble, toNat_regField, hrd, hrn, toInt_ofInt_imm himm]⟩
    | _ => exact absurd hm (by decide)
  | shift m rd rn shamt =>
    simp only [AsmLine.wellFormed, Bool.and_eq_true] at h
    obtain ⟨⟨⟨hm, hrd⟩, hrn⟩, hshamt⟩ := h
    cases m with
    | lsl | lsr | asr =>
      exact ⟨_, rfl, by simp only [disassemble, toNat_regField, hrd, hrn, toNat_ofNat_shamt hshamt]⟩
    | _ => exact absurd hm (by decide)
  | d m rt rn off =>
    simp only [AsmLine.wellFormed, Bool.and_eq_true] at h
    obtain ⟨⟨⟨hm, hrt⟩, hrn⟩, hoff⟩ := h
    cases m with
    | ldur | stur =>
      exact ⟨_, rfl, by simp only [disassemble, toNat_regField, hrt, hrn, toNat_ofNat_offsetD hoff]⟩
    | _ => exact absurd hm (by decide)
  | b m off =>
    simp only [AsmLine.wellFormed, Bool.and_eq_true] at h
    obtain ⟨hm, hoff⟩ := h
    cases m with
    | b => exact ⟨_, rfl, by simp only [disassemble, toInt_ofInt_offsetB hoff]⟩
    | _ => exact absurd hm (by decide)
  | cb m rt off =>
    simp only [AsmLine.wellFormed, Bool.and_eq_true] at h
    obtain ⟨⟨hm, hrt⟩, hoff⟩ := h
    cases m with
    | cbz | cbnz =>
      exact ⟨_, rfl, by simp only [disassemble, toNat_regField, hrt, toInt_ofInt_offsetCB hoff]⟩
    | _ => exact absurd hm (by decide)
  | im m rd field amount =>
    simp only [AsmLine.wellFormed, Bool.and_eq_true] at h
    obtain ⟨⟨⟨hm, hrd⟩, hfield⟩, hamount⟩ := h
    cases m with
    | movz | movk =>
      exact ⟨_, rfl, by simp only [disassemble, toNat_regField, hrd, toNat_ofNat_field hfield,
        toNat_ofNat_imShift hamount]⟩
    | _ => exact absurd hm (by decide)
  | nop => exact ⟨_, rfl, rfl⟩
  | brk => exact ⟨_, rfl, rfl⟩

/-- A well-formed line is read by its operands; any other line stands for no instruction (log 18). -/
theorem assemble_of_wellFormed {l : AsmLine} (h : l.wellFormed = true) :
    assemble l = assembleInRange l := if_pos h

theorem assemble_of_not_wellFormed {l : AsmLine} (h : ¬ l.wellFormed = true) :
    assemble l = none := if_neg h

/-- Settles O12: instruction to line and back by the fields' round trips, line to instruction and back by the
operands' (`exists_assembleInRange`). -/
theorem assembleAndDisassembleAgree : Obligations.AssembleAndDisassembleAgree := by
  refine ⟨fun i => ⟨wellFormed_disassemble i, ?line⟩, fun l i h => ?back, fun l => ?range⟩
  case line =>
    rw [assemble_of_wellFormed (wellFormed_disassemble i), assembleInRange_disassemble]
  case back =>
    by_cases hwf : l.wellFormed = true
    · obtain ⟨j, hj, hl⟩ := exists_assembleInRange hwf
      rw [assemble_of_wellFormed hwf, hj] at h
      exact Option.some.inj h ▸ hl
    · rw [assemble_of_not_wellFormed hwf] at h
      cases h
  case range =>
    by_cases hwf : l.wellFormed = true
    · obtain ⟨j, hj, -⟩ := exists_assembleInRange hwf
      rw [assemble_of_wellFormed hwf, hj, hwf, Option.isSome_some]
    · rw [assemble_of_not_wellFormed hwf, Option.isSome_none, Bool.eq_false_iff.2 hwf]

end Sys2Proof.Proofs

/-!
Input lines (00_scope.md R8, 10_state.md R27, 30_encoding.md R87). A line that reads as a number is a list of
bits written as characters, and the number is the one those bits spell, bit 31 first.
-/

namespace Sys2Proof.Proofs

open Sys2Proof.Machine

/-- The character of a bit (R8). -/
def bitChar (b : Bool) : Char := if b then '1' else '0'

theorem bitOfChar_bitChar (b : Bool) : bitOfChar (bitChar b) = some b.toNat := by
  cases b <;> rfl

/-- A character that stands for a bit is that bit's character. -/
theorem exists_bitChar_of_bitOfChar {c : Char} {n : Nat} (h : bitOfChar c = some n) :
    ∃ b, c = bitChar b := by
  unfold bitOfChar at h
  split at h
  · next h0 => exact ⟨false, h0⟩
  · split at h
    · next h1 => exact ⟨true, h1⟩
    · cases h

/-- The number of the characters of some bits, most significant first. -/
theorem binaryFrom_map_bitChar (bs : List Bool) (acc : Nat) :
    binaryFrom acc (bs.map bitChar) =
      some (acc * 2 ^ bs.length + (BitVec.ofBoolListBE bs).toNat) := by
  induction bs generalizing acc with
  | nil => simp [binaryFrom, BitVec.ofBoolListBE]
  | cons b bs ih =>
    have hlt := (BitVec.ofBoolListBE bs).isLt
    have hcons : (BitVec.ofBoolListBE (b :: bs)).toNat =
        b.toNat * 2 ^ bs.length + (BitVec.ofBoolListBE bs).toNat := by
      rw [BitVec.ofBoolListBE, BitVec.toNat_cons, ← Nat.shiftLeft_add_eq_or_of_lt hlt,
        Nat.shiftLeft_eq]
    rw [List.map_cons, binaryFrom, bitOfChar_bitChar]
    simp only [ih, hcons, List.length_cons]
    congr 1
    ring

/-- A line that reads as a number is the characters of some bits. -/
theorem exists_bits_of_binaryFrom {line : List Char} {acc n : Nat}
    (h : binaryFrom acc line = some n) : ∃ bs : List Bool, line = bs.map bitChar := by
  induction line generalizing acc with
  | nil => exact ⟨[], rfl⟩
  | cons c cs ih =>
    rw [binaryFrom] at h
    split at h
    · next d hd =>
      obtain ⟨b, rfl⟩ := exists_bitChar_of_bitOfChar hd
      obtain ⟨bs, rfl⟩ := ih h
      exact ⟨b :: bs, rfl⟩
    · cases h

/-- The word that 32 bits spell, bit 31 first. -/
def wordOfBits (bs : List Bool) : InstrWord := BitVec.ofNat 32 (BitVec.ofBoolListBE bs).toNat

theorem getMsbD_wordOfBits {bs : List Bool} (h : bs.length = 32) (k : Nat) :
    (wordOfBits bs).getMsbD k = bs.getD k false := by
  have hcast : wordOfBits bs = (BitVec.ofBoolListBE bs).cast h := by
    refine BitVec.eq_of_toNat_eq ?_
    rw [wordOfBits, BitVec.toNat_ofNat, BitVec.toNat_cast, ← h, Nat.mod_eq_of_lt (BitVec.isLt _)]
  rw [hcast, BitVec.getMsbD_cast, BitVec.getMsbD_ofBoolListBE]

/-- The bits of a word, bit 31 first. -/
def bitsOfWord (w : InstrWord) : List Bool := (List.range 32).map w.getMsbD

theorem length_bitsOfWord (w : InstrWord) : (bitsOfWord w).length = 32 := by
  rw [bitsOfWord, List.length_map, List.length_range]

theorem lineOfWord_eq_map_bitChar (w : InstrWord) : lineOfWord w = (bitsOfWord w).map bitChar := by
  rw [bitsOfWord, List.map_map]; rfl

/-- The word of a word's bits is the word. -/
theorem wordOfBits_bitsOfWord (w : InstrWord) : wordOfBits (bitsOfWord w) = w := by
  refine BitVec.eq_of_getMsbD_eq fun k hk => ?_
  rw [getMsbD_wordOfBits (length_bitsOfWord w)]
  simp [bitsOfWord, hk]

/-- The bits of the word of 32 bits are those bits. -/
theorem bitsOfWord_wordOfBits {bs : List Bool} (h : bs.length = 32) :
    bitsOfWord (wordOfBits bs) = bs := by
  refine List.ext_getElem ((length_bitsOfWord _).trans h.symm) fun k _ hk => ?_
  simp [bitsOfWord, getMsbD_wordOfBits h, hk]

/-! ### The slot of a line -/

/-- The characters of 32 bits are the line of the word they spell (R8, R27). -/
theorem ofLine_map_bitChar {bs : List Bool} (h : bs.length = 32) :
    Slot.ofLine (bs.map bitChar) = .word (wordOfBits bs) := by
  rw [Slot.ofLine, if_pos (by rw [List.length_map, h])]
  simp only [binaryFrom_map_bitChar, Nat.zero_mul, Nat.zero_add, wordOfBits]

/-- A line that is not Invalid is the characters of 32 bits. -/
theorem exists_bits_of_ofLine_ne_invalid {line : List Char} (h : Slot.ofLine line ≠ .invalid) :
    ∃ bs : List Bool, bs.length = 32 ∧ line = bs.map bitChar := by
  unfold Slot.ofLine at h
  split at h
  · next hlen =>
    split at h
    · next v hv =>
      obtain ⟨bs, rfl⟩ := exists_bits_of_binaryFrom hv
      exact ⟨bs, by rwa [List.length_map] at hlen, rfl⟩
    · exact absurd rfl h
  · exact absurd rfl h

/-- Settles O13: a line that is no Invalid slot is the characters of 32 bits, and words and lists of 32 bits
correspond one to one. -/
theorem onlyBinaryLinesOf32AreWords : Obligations.OnlyBinaryLinesOf32AreWords := by
  refine ⟨fun w => ?toWord, fun line w h => ?ofWord, fun line hlen => ?length,
    fun line c hc h0 h1 => ?binary⟩
  case toWord =>
    rw [lineOfWord_eq_map_bitChar, ofLine_map_bitChar (length_bitsOfWord w), wordOfBits_bitsOfWord]
  case ofWord =>
    obtain ⟨bs, hlen, rfl⟩ := exists_bits_of_ofLine_ne_invalid (by rw [h]; exact Slot.noConfusion)
    rw [ofLine_map_bitChar hlen] at h
    rw [← Slot.word.inj h, lineOfWord_eq_map_bitChar, bitsOfWord_wordOfBits hlen]
  case length =>
    by_contra hne
    obtain ⟨bs, h32, rfl⟩ := exists_bits_of_ofLine_ne_invalid hne
    exact hlen (by rw [List.length_map, h32])
  case binary =>
    by_contra hne
    obtain ⟨bs, -, rfl⟩ := exists_bits_of_ofLine_ne_invalid hne
    obtain ⟨b, -, rfl⟩ := List.mem_map.1 hc
    cases b with
    | false => exact h0 rfl
    | true => exact h1 rfl

end Sys2Proof.Proofs

/-!
Fetch and the step (10_state.md R36 to R38, 46_nop_break_unknown.md R185, R186): what a fetch gives at every
pc, and the step in each of its cases.
-/

namespace Sys2Proof.Proofs

open Sys2Proof.Machine

/-! ### Fetch -/

/-- A fetch gives the slot whose address the pc is (R27, R37). -/
theorem fetchAt_eq_slot_iff {image : List Slot} {pc : Word} {v : Slot} :
    fetchAt image pc = .slot v ↔ 96 ≤ pc.toNat ∧ (pc.toNat - 96) % 4 = 0 ∧
      image[(pc.toNat - 96) / 4]? = some v := by
  rw [fetchAt_slot, slotIndex]
  by_cases h : pcBase ≤ pc.toNat ∧ (pc.toNat - pcBase) % pcStep = 0
  · rw [if_pos h, ← and_assoc]
    exact (and_iff_right h).symm
  · rw [if_neg h, ← and_assoc]
    exact iff_of_false nofun fun h' => h h'.1

/-- A fetch finds the end exactly one past the last slot (R37). -/
theorem fetchAt_eq_exhausted_iff {image : List Slot} {pc : Word} :
    fetchAt image pc = .exhausted ↔ pc.toNat = 96 + 4 * image.length := by
  cases hs : (slotIndex pc).bind (image[·]?) with
  | some v =>
    have hf : fetchAt image pc = .slot v := fetchAt_slot.2 hs
    obtain ⟨_, _, hv⟩ := fetchAt_eq_slot_iff.1 hf
    have hlt := (List.getElem?_eq_some_iff.1 hv).1
    rw [hf]
    exact iff_of_false nofun (by omega)
  | none =>
    have hf : fetchAt image pc = if pc.toNat = pcBase + pcStep * image.length then .exhausted
        else .fetchFault := by simp only [fetchAt, hs]
    rw [hf]
    split
    · next hend => exact iff_of_true rfl hend
    · next hend => exact iff_of_false nofun hend

/-- A fetch that finds neither a slot nor the end is a fetch fault (R37). -/
theorem fetchAt_eq_fetchFault_iff {image : List Slot} {pc : Word} :
    fetchAt image pc = .fetchFault ↔
      fetchAt image pc ≠ .exhausted ∧ ∀ v, fetchAt image pc ≠ .slot v := by
  cases fetchAt image pc <;> simp

/-- Settles O15: the slot and the end by the address arithmetic of R27, the fault as the rest. -/
theorem fetchOutcomes : Obligations.FetchOutcomes := by
  intro image pc
  refine ⟨fun v => fetchAt_eq_slot_iff, fetchAt_eq_exhausted_iff, ?_⟩
  rw [fetchAt_eq_fetchFault_iff, Ne, fetchAt_eq_exhausted_iff]
  refine and_congr_right fun _ => ?_
  simp only [ne_eq, fetchAt_eq_slot_iff, ← not_exists, exists_and_left, ← Option.isSome_iff_exists,
    isSome_getElem?]

/-! ### The step in each of its cases -/

/-- The step on an Invalid slot skips it (R185). -/
theorem step_of_fetch_invalid {s : State} (hr : s.run = .running) (hf : s.fetch = .slot .invalid) :
    step s = .next s.skipSlot := by
  simp only [step, hr, hf, stepInvalid]

/-- The step whose fetch finds the end of IMAGE (R37). -/
theorem step_of_fetch_exhausted {s : State} (hr : s.run = .running) (hf : s.fetch = .exhausted) :
    step s = .next (s.endRun .exhausted) := by
  simp only [step, hr, hf, stepExhausted]

/-- The step whose fetch names no slot (R37). -/
theorem step_of_fetch_fault {s : State} (hr : s.run = .running) (hf : s.fetch = .fetchFault) :
    step s = .next (s.endRun .fetchFault) := by
  simp only [step, hr, hf, stepFetchFault]

/-- A HALTED state has no step (R38). -/
theorem step_of_halted {s : State} (hr : s.run = .halted) : step s = .refused .halted := by
  simp only [step, hr]

/-- An EXHAUSTED state has no step (R38). -/
theorem step_of_exhausted {s : State} (hr : s.run = .exhausted) : step s = .refused .exhausted := by
  simp only [step, hr]

/-- A FETCH_FAULT state has no step, and that is a fault (R38, R203). -/
theorem step_of_fetchFault {s : State} (hr : s.run = .fetchFault) : step s = .fault .fetchFault := by
  simp only [step, hr]

/-- Settles O14. -/
theorem stepRunsTheDecodedInstruction : Obligations.StepRunsTheDecodedInstruction :=
  fun _ _ _ hr hf hd => step_of_decode_instr hr hf hd

/-- Settles O16: `endRun` sets run and nothing else. -/
theorem fetchEndsTheRunAndChangesNothingElse : Obligations.FetchEndsTheRunAndChangesNothingElse := by
  refine fun s hr => ⟨fun hf => ⟨_, step_of_fetch_exhausted hr hf, ?_⟩,
    fun hf => ⟨_, step_of_fetch_fault hr hf, ?_⟩⟩
  · exact ⟨s.endRun_run _, s.endRun_readReg _, fun _ => rfl, s.endRun_pc _, s.endRun_icount _,
      s.endRun_cfg _⟩
  · exact ⟨s.endRun_run _, s.endRun_readReg _, fun _ => rfl, s.endRun_pc _, s.endRun_icount _,
      s.endRun_cfg _⟩

/-- The output of a step on a fetched word. -/
theorem output_of_fetch_word {s : State} {w : InstrWord} (hr : s.run = .running)
    (hf : s.fetch = .slot (.word w)) : output s = some (outputOfWord s w) := by
  simp only [output, hr, hf]

/-- The output of a step on an Invalid slot (R185, R202). -/
theorem output_of_fetch_invalid {s : State} (hr : s.run = .running) (hf : s.fetch = .slot .invalid) :
    output s = some (.diag .malformedInput s.pc none) := by
  simp only [output, hr, hf]

/-- The output on an UNKNOWN word (R186, R202). -/
theorem outputOfWord_of_decode_unknown {w : InstrWord} (s : State) (hd : decode w = .unknown) :
    outputOfWord s w = .diag .unknownOpcode s.pc (some w) := by
  simp only [outputOfWord, hd]

/-- Settles O17: both slots are skipped, each with its diagnostic. -/
theorem invalidAndUnknownSlotsAreSkipped : Obligations.InvalidAndUnknownSlotsAreSkipped := by
  refine ⟨fun s hr hf => ?invalid, fun s w hr hf hd => ?unknown⟩
  case invalid =>
    exact ⟨⟨_, step_of_fetch_invalid hr hf, skipped_skipSlot s⟩, output_of_fetch_invalid hr hf⟩
  case unknown =>
    exact ⟨⟨_, step_of_decode_unknown hr hf hd, skipped_skipSlot s⟩, by
      rw [output_of_fetch_word hr hf, outputOfWord_of_decode_unknown s hd]⟩

/-- Settles O19: `step` answers a next state for RUNNING states alone. -/
theorem terminalStatesHaveNoStep : Obligations.TerminalStatesHaveNoStep := fun _ =>
  ⟨step_of_halted, step_of_exhausted, step_of_fetchFault,
    fun hne _ h => hne (step_cases h).1⟩

end Sys2Proof.Proofs

/-!
What an instruction does to the state, said of each field for all instructions at once (10_state.md R22, R34,
R36), and what its rule reads.
-/

namespace Sys2Proof.Proofs

open Sys2Proof.Machine

/-! ### run, icount and the parameters -/

/-- BREAK sets run to HALTED, and no other instruction changes run (R34, R181). -/
theorem run_of_exec {i : Instr} {s t : State} (h : exec i s = .next t) :
    t.run = if i = .brk then .halted else s.run := by
  cases effect_of_exec h with
  | register rd v _ _ hb ht => rw [ht, if_neg hb, State.result_run]
  | store a v _ _ hb ht => rw [ht, if_neg hb, State.retire_run, State.writeMem_run]
  | pcOnly n _ _ hb ht => rw [ht, if_neg hb, State.retire_run]
  | halt hi ht => rw [ht, if_pos hi, State.endRun_run]
  | skip rd rn rm hi _ ht => rw [ht, if_neg (hi ▸ Instr.noConfusion), State.skipSlot_run]

/-- The instruction is ORR and ORR_MODE is NO_EFFECT: the one decoded instruction that is skipped (R187). -/
def OrrSkipped (i : Instr) (s : State) : Prop := i.mnemonic = .orr ∧ s.cfg.orrMode = .noEffect

/-- ORR without effect is a skipped step (R104, R187). -/
theorem exec_of_orrSkipped {i : Instr} {s : State} (h : OrrSkipped i s) :
    exec i s = .next s.skipSlot := by
  obtain ⟨hi, hmode⟩ := h
  cases i with
  | orr rd rn rm => simp only [exec, execOrr, hmode]
  | _ => cases hi

/-- Every instruction that is not skipped counts as executed (R31, R36). -/
theorem icount_of_exec {i : Instr} {s t : State} (h : exec i s = .next t) (hx : ¬ OrrSkipped i s) :
    t.icount = s.icount + 1 := by
  cases effect_of_exec h with
  | register rd v _ _ _ ht => rw [ht, State.result_icount]
  | store a v _ _ _ ht => rw [ht, State.retire_icount, State.writeMem_icount]
  | pcOnly n _ _ _ ht => rw [ht, State.retire_icount]
  | halt _ ht => rw [ht, State.endRun_icount, State.retire_icount]
  | skip rd rn rm hi hm _ => exact absurd ⟨by rw [hi]; rfl, hm⟩ hx

/-- No instruction changes IMAGE or ORR_MODE (R27). -/
theorem cfg_of_exec {i : Instr} {s t : State} (h : exec i s = .next t) : t.cfg = s.cfg := by
  obtain ⟨u, hu, -, -, -, hcfg⟩ := exec_values i s
  cases hu.symm.trans h
  exact hcfg

/-! ### What the rule of an instruction reads -/

/-- The register a rule writes is the one the table of R22 names. -/
theorem map_fst_resultOf (mode : OrrMode) (x : Reg → Word) (m : Memory) (i : Instr) :
    (resultOf mode x m i).map Prod.fst = destReg mode i := by
  cases i with
  | orr rd rn rm => cases mode <;> rfl
  | _ => rfl

/-- A rule's result depends on the source registers alone (R22). -/
theorem resultOf_congr {mode : OrrMode} {x x' : Reg → Word} (m : Memory) {i : Instr}
    (h : ∀ r ∈ sourceRegs mode i, x' r = x r) : resultOf mode x' m i = resultOf mode x m i := by
  cases i with
  | orr rd rn rm =>
    cases mode with
    | or => simp [resultOf, h rn (by simp [sourceRegs]), h rm (by simp [sourceRegs])]
    | noEffect => rfl
  | add rd rn rm | sub rd rn rm | and rd rn rm | eor rd rn rm =>
    simp [resultOf, h rn (by simp [sourceRegs]), h rm (by simp [sourceRegs])]
  | addi rd rn | subi rd rn | lsl rd rn | lsr rd rn | asr rd rn | ldur rd rn =>
    simp [resultOf, h rn (by simp [sourceRegs])]
  | movk rd => simp [resultOf, h rd (by simp [sourceRegs])]
  | _ => rfl

/-- The cell a rule stores and its value depend on the source registers alone (R22). -/
theorem storeFrom_congr {mode : OrrMode} {x x' : Reg → Word} {i : Instr}
    (h : ∀ r ∈ sourceRegs mode i, x' r = x r) : storeFrom x' i = storeFrom x i := by
  cases i with
  | stur rt rn => simp [storeFrom, h rn (by simp [sourceRegs]), h rt (by simp [sourceRegs])]
  | _ => rfl

/-- The pc an instruction leaves depends on the source registers alone (R22). -/
theorem pcFrom_congr {mode : OrrMode} {x x' : Reg → Word} (pc : Word) {i : Instr}
    (h : ∀ r ∈ sourceRegs mode i, x' r = x r) : pcFrom x' pc i = pcFrom x pc i := by
  cases i with
  | cbz rt off =>
    have hrt : x' rt = x rt := h rt (List.mem_singleton_self rt)
    exact congrArg (fun v => if v = 0#64 then pc + off.signExtend 64 * 4#64 else pc + 4#64) hrt
  | cbnz rt off =>
    have hrt : x' rt = x rt := h rt (List.mem_singleton_self rt)
    exact congrArg (fun v => if v = 0#64 then pc + 4#64 else pc + off.signExtend 64 * 4#64) hrt
  | _ => rfl

/-- A rule's result depends on the memory through what its cells read as (R35). -/
theorem resultOf_congr_read (mode : OrrMode) (x : Reg → Word) {m m' : Memory}
    (h : ∀ a, m.read a = m'.read a) (i : Instr) : resultOf mode x m i = resultOf mode x m' i := by
  cases i with
  | ldur rt rn off => exact congrArg (fun v => some (rt, v)) (h _)
  | _ => rfl

/-! ### Frames over all instructions -/

/-- Settles O41: of the five effects only a register result changes a register, the destination's. -/
theorem onlyTheDestinationRegisterChanges : Obligations.OnlyTheDestinationRegisterChanges := by
  intro i s
  obtain ⟨t, he, heff⟩ := exec_effect i s
  refine ⟨t, he, fun r hr => ?_⟩
  cases heff with
  | register rd v hd _ _ ht =>
    rw [ht, State.readReg_result, if_neg fun hrd => hr (by rw [hd, hrd])]
  | store a v _ _ _ ht => rw [ht, State.retire_readReg, State.writeMem_readReg]
  | pcOnly n _ _ _ ht => rw [ht, State.retire_readReg]
  | halt _ ht => rw [ht, State.endRun_readReg, State.retire_readReg]
  | skip rd rn rm _ _ ht => rw [ht, State.skipSlot_readReg]

/-- Settles O43: `lookup_of_exec` with the store written out. -/
theorem onlySturChangesMemory : Obligations.OnlySturChangesMemory := by
  intro i s
  obtain ⟨t, he, -⟩ := exec_effect i s
  exact ⟨t, he, lookup_of_exec he⟩

/-- icount after an instruction is that of any state with the same ORR_MODE and icount. -/
theorem icount_congr {i : Instr} {s s' t t' : State} (h : exec i s = .next t) (h' : exec i s' = .next t')
    (hcfg : s'.cfg = s.cfg) (hic : s'.icount = s.icount) : t'.icount = t.icount := by
  by_cases hx : OrrSkipped i s
  · have hx' : OrrSkipped i s' := ⟨hx.1, hcfg ▸ hx.2⟩
    cases (exec_of_orrSkipped hx).symm.trans h
    cases (exec_of_orrSkipped hx').symm.trans h'
    exact hic
  · have hx' : ¬ OrrSkipped i s' := fun hx' => hx ⟨hx'.1, hcfg ▸ hx'.2⟩
    rw [icount_of_exec h hx, icount_of_exec h' hx', hic]

/-- Settles O42: the result, the store and the pc are the rule's values (`exec_values`), and the rule reads
the source registers alone; run and icount depend on no register. -/
theorem onlyTheSourceRegistersAreRead : Obligations.OnlyTheSourceRegistersAreRead := by
  intro i s s' hpc hmem hrun hic hcfg hsrc
  obtain ⟨t, he, htregs, htmem, htpc, -⟩ := exec_values i s
  obtain ⟨t', he', htregs', htmem', htpc', -⟩ := exec_values i s'
  refine ⟨t, t', he, he', ?pc, ?mem, ?run, icount_congr he he' hcfg hic, fun r hr => ?dest⟩
  case pc => rw [htpc, htpc', hpc, pcFrom_congr _ hsrc]
  case mem => rw [htmem, htmem', hmem, storeFrom_congr hsrc]
  case run => rw [run_of_exec he, run_of_exec he', hrun]
  case dest =>
    rw [← map_fst_resultOf _ s.readReg s.mem, Option.map_eq_some_iff] at hr
    obtain ⟨⟨d, v⟩, hres, rfl⟩ := hr
    have hres' : resultOf s'.cfg.orrMode s'.readReg s'.mem i = some (d, v) := by
      rw [hcfg, hmem, resultOf_congr _ hsrc, hres]
    rw [htregs, htregs', hres, hres']
    simp only [withReg, if_true]

/-! ### Two instructions in a row -/

/-- An instruction that writes a register stores no cell and goes on at pc + 4 (R22, R36). -/
theorem store_and_pc_of_resultOf {mode : OrrMode} {x : Reg → Word} {m : Memory} {i : Instr}
    {p : Reg × Word} (h : resultOf mode x m i = some p) (y : Reg → Word) (pc : Word) :
    storeFrom y i = none ∧ pcFrom y pc i = pc + 4#64 := by
  cases i with
  | stur | b | cbz | cbnz | nop | brk => cases h
  | _ => exact ⟨rfl, rfl⟩

/-- Settles O47: STUR's cell is read back by LDUR; and the state after an instruction that writes a register
is the registers with its result in place, the same cells and pc + 4, from which the second instruction's rule
computes its values. -/
theorem nextInstructionSeesTheEffects : Obligations.NextInstructionSeesTheEffects := by
  refine ⟨fun rt rn off qt qn qoff s hea => ?cell, fun i j s r v hres => ?register⟩
  case cell =>
    refine ⟨_, _, exec_stur rt rn off s, exec_ldur qt qn qoff _, ?_⟩
    rw [readReg_result_same, State.retire_mem, State.writeMem_mem, Memory.read_write,
      effectiveAddress_congr (s := s) qoff (by rw [State.retire_readReg, State.writeMem_readReg]),
      if_pos hea]
  case register =>
    obtain ⟨t, he, htregs, htmem, htpc, htcfg⟩ := exec_values i s
    obtain ⟨u, hu, huregs, humem, hupc, -⟩ := exec_values j t
    obtain ⟨hstore, hpc⟩ := store_and_pc_of_resultOf hres s.readReg s.pc
    have hregs : t.readReg = withReg s.readReg r v := by
      funext q; rw [htregs, hres]
    have hmem : t.mem = s.mem := by rw [htmem, hstore]
    rw [htcfg, hregs, hmem] at huregs
    rw [hregs, hmem] at humem
    refine ⟨t, u, he, hu, fun q => ?_, fun a => ?_, ?_⟩
    · rw [huregs]
      cases resultOf s.cfg.orrMode (withReg s.readReg r v) s.mem j <;> rfl
    · rw [humem]
      cases storeFrom (withReg s.readReg r v) j with
      | none => rfl
      | some p => exact Memory.lookup_write ..
    · rw [hupc, hregs, htpc, hpc]

end Sys2Proof.Proofs

/-!
What every step keeps and what a step reports (10_state.md R27, R29, R31 to R38, 60_exceptions.md R201, R202,
R213). Each fact is one case analysis over what a step can do; the facts over runs follow by induction on the
run's length.
-/

namespace Sys2Proof.Proofs

open Sys2Proof.Machine

/-! ### The parameters (R27) -/

/-- No step changes IMAGE or ORR_MODE. -/
theorem cfg_of_step {s t : State} (h : step s = .next t) : t.cfg = s.cfg := by
  cases (step_cases h).2 with
  | instr w i _ _ he => exact cfg_of_exec he
  | unknown w _ _ ht => rw [ht, State.skipSlot_cfg]
  | invalid _ ht => rw [ht, State.skipSlot_cfg]
  | exhausted _ ht => rw [ht, State.endRun_cfg]
  | fetchFault _ ht => rw [ht, State.endRun_cfg]

/-- Settles O51, by induction on the run's length. -/
theorem imageAndModeNeverChange : Obligations.ImageAndModeNeverChange := by
  intro k s t h
  induction k generalizing s with
  | zero => cases h; rfl
  | succ k ih =>
    obtain ⟨u, hstep, hrun⟩ := runSteps_succ_eq_next.1 h
    rw [ih u hrun, cfg_of_step hstep]

/-! ### The run state (R34) -/

/-- The next step runs the instruction that the fetched word decodes to, and no other. -/
theorem nextInstr_iff {s : State} {w : InstrWord} {i j : Instr} (hr : s.run = .running)
    (hf : s.fetch = .slot (.word w)) (hd : decode w = .instr i) : NextInstr s j ↔ i = j := by
  constructor
  · rintro ⟨w', -, hf', hd'⟩
    cases hf.symm.trans hf'
    exact Decoded.instr.inj (hd.symm.trans hd')
  · rintro rfl
    exact ⟨w, hr, hf, hd⟩

/-- A step that decodes no instruction runs none. -/
theorem not_nextInstr {s : State} (h : ∀ w i, s.fetch = .slot (.word w) → decode w ≠ .instr i)
    (j : Instr) : ¬ NextInstr s j :=
  fun ⟨w, _, hf, hd⟩ => h w j hf hd

/-- Settles O50: BREAK sets HALTED, the two ends of fetch set their own run state, and every other step goes
on RUNNING. -/
theorem runChangesOnlyByBreakAndFetch : Obligations.RunChangesOnlyByBreakAndFetch := by
  intro s t h
  obtain ⟨hr, hc⟩ := step_cases h
  cases hc with
  | instr w i hf hd he =>
    rw [run_of_exec he, hf, nextInstr_iff hr hf hd]
    by_cases hb : i = .brk <;> simp [hb, hr]
  | unknown w hf hd ht =>
    have hn := not_nextInstr (s := s) (by rintro w' i hf'; cases hf.symm.trans hf'; simp [hd])
    simp [ht, hr, hf, hn]
  | invalid hf ht =>
    have hn := not_nextInstr (s := s) (by simp [hf])
    simp [ht, hr, hf, hn]
  | exhausted hf ht =>
    have hn := not_nextInstr (s := s) (by simp [hf])
    simp [ht, hf, hn]
  | fetchFault hf ht =>
    have hn := not_nextInstr (s := s) (by simp [hf])
    simp [ht, hf, hn]

/-! ### A branch to itself (R237, U3) -/

/-- `B #0` retires at its own address. -/
theorem exec_b_zero (s : State) : exec (.b 0#26) s = .next (s.retire s.pc) := by
  rw [exec_b, State.branchTarget, show displacement 0#26 = 0#64 from by decide, BitVec.add_zero]

/-- A run of `B #0` changes icount and nothing else. -/
theorem runSteps_b_zero {w : InstrWord} (hd : decode w = .instr (.b 0#26)) (k : Nat) {s : State}
    (hr : s.run = .running) (hf : s.fetch = .slot (.word w)) :
    runSteps k s = .next { s with icount := s.icount + k } := by
  induction k generalizing s with
  | zero => rfl
  | succ k ih =>
    refine runSteps_succ_eq_next.2
      ⟨s.retire s.pc, (step_of_decode_instr hr hf hd).trans (exec_b_zero s), ?_⟩
    rw [ih (s := s.retire s.pc) hr ((fetch_retire s s.pc).trans hf), State.retire_icount,
      Nat.add_assoc, Nat.add_comm 1 k]
    rfl

/-- Settles O49, by induction on the run's length. -/
theorem branchToItselfNeverEnds : Obligations.BranchToItselfNeverEnds := by
  intro k s w hr hf hd
  exact ⟨_, runSteps_b_zero hd k hr hf, hr, rfl, rfl, fun _ => rfl, fun _ => rfl, rfl⟩

/-! ### What a step's output tells (R32, R201, R202) -/

/-- The output on a word that decodes to a skipped ORR (R187). -/
theorem outputOfWord_of_orrSkipped {s : State} {w : InstrWord} {i : Instr} (hd : decode w = .instr i)
    (hx : OrrSkipped i s) :
    outputOfWord s w = .diag .unrecognizedDiscriminator s.pc (some w) := by
  simp only [outputOfWord, hd]
  exact if_pos hx

/-- The output on a word that decodes to any other instruction: the Decoded Instruction (R80). -/
theorem outputOfWord_of_executed {s : State} {w : InstrWord} {i : Instr} (hd : decode w = .instr i)
    (hx : ¬ OrrSkipped i s) :
    outputOfWord s w =
      .decoded i.mnemonic.format i.mnemonic (extractFields i.mnemonic.format w) := by
  simp only [outputOfWord, hd]
  exact if_neg hx

/-- The one outcome of a step and the output that goes with it (R204): an executed instruction with its
decode outcome, a skipped step with its diagnostic, or the end of the run at its fetch with no output. -/
inductive Reported (s t : State) : Prop where
  | executed (w : InstrWord) (i : Instr) (hn : NextInstr s i) (hf : s.fetch = .slot (.word w))
      (hd : decode w = .instr i) (hi : t.icount = s.icount + 1)
      (ho : output s = some
        (.decoded i.mnemonic.format i.mnemonic (extractFields i.mnemonic.format w)))
  | skipped (kind : DiagKind) (word : Option InstrWord) (hw : word = none ↔ kind = .malformedInput)
      (hf : ∀ w, word = some w → s.fetch = .slot (.word w)) (ht : t = s.skipSlot)
      (ho : output s = some (.diag kind s.pc word))
  | ended (q : RunState) (hq : q = .exhausted ∨ q = .fetchFault) (ht : t = s.endRun q)
      (ho : output s = none)

theorem reported_of_step {s t : State} (h : step s = .next t) : Reported s t := by
  obtain ⟨hr, hc⟩ := step_cases h
  cases hc with
  | instr w i hf hd he =>
    have ho := output_of_fetch_word hr hf
    by_cases hx : OrrSkipped i s
    · rw [outputOfWord_of_orrSkipped hd hx] at ho
      cases (exec_of_orrSkipped hx).symm.trans he
      exact .skipped _ (some w) (by simp) (by rintro _ ⟨⟩; exact hf) rfl ho
    · rw [outputOfWord_of_executed hd hx] at ho
      exact .executed w i ⟨w, hr, hf, hd⟩ hf hd (icount_of_exec he hx) ho
  | unknown w hf hd ht =>
    have ho := output_of_fetch_word hr hf
    rw [outputOfWord_of_decode_unknown s hd] at ho
    exact .skipped _ (some w) (by simp) (by rintro _ ⟨⟩; exact hf) ht ho
  | invalid hf ht => exact .skipped _ none (by simp) nofun ht (output_of_fetch_invalid hr hf)
  | exhausted hf ht => exact .ended _ (.inl rfl) ht (by simp only [output, hr, hf])
  | fetchFault hf ht => exact .ended _ (.inr rfl) ht (by simp only [output, hr, hf])

/-- icount goes up by what the step's output counts (R31). -/
theorem icount_of_step {s t : State} (h : step s = .next t) :
    t.icount = s.icount + executedCount (output s) := by
  cases reported_of_step h with
  | executed w i _ _ _ hi ho => rw [hi, ho, executedCount]
  | skipped kind word _ _ ht ho => rw [ht, ho, State.skipSlot_icount]; rfl
  | ended q _ ht ho => rw [ht, ho, State.endRun_icount]; rfl

/-- The executed instructions of a run that starts with a step: the step's, and the rest's. -/
theorem executedSteps_succ {s u : State} (h : step s = .next u) (k : Nat) :
    executedSteps (k + 1) s = executedCount (output s) + executedSteps k u := by
  simp only [executedSteps, h]

/-- Settles O52, by induction on the run's length: each step adds what its output counts. -/
theorem icountCountsExecutedInstructions : Obligations.IcountCountsExecutedInstructions := by
  intro k s t h
  induction k generalizing s with
  | zero => cases h; rfl
  | succ k ih =>
    obtain ⟨u, hstep, hrun⟩ := runSteps_succ_eq_next.1 h
    rw [ih u hrun, icount_of_step hstep, executedSteps_succ hstep, Nat.add_assoc]

/-! ### The typed fields (R79) -/

/-- The two's-complement value of a field's bits is the field's signed value (R10). -/
theorem signedValue_toNat {n : Nat} (v : BitVec (n + 1)) : signedValue (n + 1) v.toNat = v.toInt := by
  rw [signedValue, BitVec.toInt_eq_toNat_cond, Nat.add_sub_cancel, Nat.pow_succ]
  by_cases h : v.toNat < 2 ^ n
  · rw [if_pos h, if_pos (by omega)]
  · rw [if_neg h, if_neg (by omega), ← Nat.pow_succ]
    push_cast
    rfl

/-- The format I immediate as a typed field. -/
theorem extract_imm (w : InstrWord) : (⟨.imm, 21, 10⟩ : FieldSpan).extract .i w =
    { name := .imm, kind := .signedImmediate, width := 12, raw := (fieldImm w).toNat,
      value := (fieldImm w).toInt } :=
  congrArg (Field.mk .imm .signedImmediate 12 (fieldImm w).toNat) (signedValue_toNat (fieldImm w))

/-- The format B offset as a typed field: a displacement (R79). -/
theorem extract_offsetB (w : InstrWord) : (⟨.offset, 25, 0⟩ : FieldSpan).extract .b w =
    typedFields.displacementField (fieldOffsetB w) :=
  congrArg (fun v => Field.mk .offset .signedPcDisplacement 26 (fieldOffsetB w).toNat (v * 4))
    (signedValue_toNat (fieldOffsetB w))

/-- The format CB offset as a typed field: a displacement (R79). -/
theorem extract_offsetCB (w : InstrWord) : (⟨.offset, 23, 5⟩ : FieldSpan).extract .cb w =
    typedFields.displacementField (fieldOffsetCB w) :=
  congrArg (fun v => Field.mk .offset .signedPcDisplacement 19 (fieldOffsetCB w).toNat (v * 4))
    (signedValue_toNat (fieldOffsetCB w))

/-- The fields the extractor slices out of a word are the typed fields of the instruction it reads: an
unsigned field's value is its bits, and the signed ones are the three above. -/
theorem extractFields_eq_typedFields (m : Mnemonic) (w : InstrWord) :
    extractFields m.format w = typedFields w (instrOf m w) := by
  cases m with
  | addi | subi =>
    exact congrArg (· :: [unsignedField .rn .registerIndex (fieldRn w),
      unsignedField .rd .registerIndex (fieldRd w)]) (extract_imm w)
  | b => exact congrArg (fun f => [f]) (extract_offsetB w)
  | cbz | cbnz =>
    exact congrArg (· :: [unsignedField .rt .registerIndex (fieldRd w)]) (extract_offsetCB w)
  | _ => rfl

/-- Settles O53, by the one outcome of the step that goes with its output (`reported_of_step`). -/
theorem outputTellsWhatTheStepDid : Obligations.OutputTellsWhatTheStepDid := by
  intro s t h
  cases reported_of_step h with
  | executed w i _ hf hd hi ho =>
    rw [ho]
    refine ⟨?_, nofun, nofun⟩
    rintro fmt m fs ⟨⟩
    obtain ⟨r, -, -, rfl⟩ := decode_eq_instr hd
    refine ⟨hi, w, _, hf, hd, rfl, rfl, rfl, ?_⟩
    rw [instrOf_mnemonic, extractFields_eq_typedFields]
  | skipped kind word hw hf ht ho =>
    rw [ho]
    refine ⟨nofun, ?_, nofun⟩
    rintro _ _ _ ⟨⟩
    exact ⟨ht ▸ skipped_skipSlot s, rfl, hw, hf⟩
  | ended q hq ht ho =>
    rw [ho]
    refine ⟨nofun, nofun, fun _ => ?_⟩
    subst ht
    exact ⟨hq, s.endRun_readReg q, fun _ => rfl, s.endRun_pc q, s.endRun_icount q⟩

/-- Settles O54: only a decode outcome has a snapshot, and only that step counts as executed. -/
theorem snapshotShowsTheStateAfterTheStep : Obligations.SnapshotShowsTheStateAfterTheStep := by
  intro s t h
  cases reported_of_step h with
  | executed w i hn _ _ hi ho =>
    have htrace : traceStep s = some ⟨t.icount, s.pc, i.mnemonic, t.x, t.mem⟩ := by
      simp only [traceStep, ho, h]
    rw [htrace]
    refine ⟨iff_of_true rfl hi, ?_⟩
    rintro p ⟨⟩
    exact ⟨rfl, rfl, rfl, rfl, i, hn, rfl⟩
  | skipped kind word _ _ ht ho =>
    have htrace : traceStep s = none := by simp only [traceStep, ho]
    rw [htrace, ht, State.skipSlot_icount]
    exact ⟨iff_of_false nofun (Nat.ne_add_one _), nofun⟩
  | ended q _ ht ho =>
    have htrace : traceStep s = none := by simp only [traceStep, ho]
    rw [htrace, ht, State.endRun_icount]
    exact ⟨iff_of_false nofun (Nat.ne_add_one _), nofun⟩

/-! ### The invariant (R29, R37, R181; log 3) -/

/-- An instruction keeps the memory's canonical form (log 3). -/
theorem mem_wf_of_exec {i : Instr} {s t : State} (h : exec i s = .next t) (hwf : s.mem.wf) :
    t.mem.wf := by
  cases effect_of_exec h with
  | register rd v _ _ _ ht => rw [ht, State.result_mem]; exact hwf
  | store a v _ _ _ ht => rw [ht, State.retire_mem, State.writeMem_mem]; exact Memory.wf_write hwf a v
  | pcOnly n _ _ _ ht => rw [ht, State.retire_mem]; exact hwf
  | halt _ ht => rw [ht, State.endRun_mem, State.retire_mem]; exact hwf
  | skip rd rn rm _ _ ht => rw [ht, State.skipSlot_mem]; exact hwf

/-- The default advance keeps the pc a multiple of 4 (R29). -/
theorem aligned_add_four {pc : Word} (h : pc.toNat % 4 = 0) : (pc + 4#64).toNat % 4 = 0 := by
  rw [BitVec.toNat_add]; simp only [BitVec.toNat_ofNat]; omega

/-- A branch's displacement keeps the pc a multiple of 4 (R29, R150). -/
theorem aligned_add_mul_four {pc : Word} (h : pc.toNat % 4 = 0) (d : Word) :
    (pc + d * 4#64).toNat % 4 = 0 := by
  rw [BitVec.toNat_add, BitVec.toNat_mul]; simp only [BitVec.toNat_ofNat]; omega

/-- Every instruction leaves the pc a multiple of 4 (R29). -/
theorem aligned_pcFrom {pc : Word} (h : pc.toNat % 4 = 0) (x : Reg → Word) (i : Instr) :
    (pcFrom x pc i).toNat % 4 = 0 := by
  cases i with
  | b off => exact aligned_add_mul_four h _
  | cbz rt off =>
    change (if x rt = 0#64 then _ else _ : Word).toNat % 4 = 0
    split
    · exact aligned_add_mul_four h _
    · exact aligned_add_four h
  | cbnz rt off =>
    change (if x rt = 0#64 then _ else _ : Word).toNat % 4 = 0
    split
    · exact aligned_add_four h
    · exact aligned_add_mul_four h _
  | brk => exact h
  | _ => exact aligned_add_four h

theorem aligned_of_exec {i : Instr} {s t : State} (h : exec i s = .next t)
    (ha : s.pc.toNat % 4 = 0) : t.pc.toNat % 4 = 0 := by
  obtain ⟨u, hu, -, -, hpc, -⟩ := exec_values i s
  cases hu.symm.trans h
  rw [hpc]
  exact aligned_pcFrom ha _ i

/-- BREAK leaves the pc at its own address (D15). -/
theorem pc_of_exec_brk {s t : State} (h : exec .brk s = .next t) : t.pc = s.pc := by
  obtain ⟨u, hu, -, -, hpc, -⟩ := exec_values .brk s
  cases hu.symm.trans h
  exact hpc

/-- A RUNNING state needs no more than the canonical memory and the multiple of 4. -/
theorem inv_of_running {s : State} (hwf : s.mem.wf) (ha : s.pc.toNat % 4 = 0) (hr : s.run = .running) :
    Inv s :=
  ⟨hwf, ha, by simp [hr], by simp [hr], by simp [hr]⟩

/-- Settles O58: instructions keep the memory's form and the alignment; a run that the step ends stands where
its last fetch looked, and BREAK's word is the only one that halts. -/
theorem everyStepKeepsTheInvariant : Obligations.EveryStepKeepsTheInvariant := by
  intro s t ⟨hwf, ha, _, _, _⟩ h
  obtain ⟨hr, hc⟩ := step_cases h
  cases hc with
  | instr w i hf hd he =>
    have hwf' := mem_wf_of_exec he hwf
    have ha' := aligned_of_exec he ha
    by_cases hb : i = .brk
    · subst hb
      have hrun : t.run = .halted := run_of_exec he
      have hfetch : t.fetch = .slot (.word 0xFEDEFFE7#32) := by
        rw [State.fetch_congr (congrArg _ (cfg_of_exec he)) (pc_of_exec_brk he), hf,
          (decode_eq_brk_iff w).1 hd]
      exact ⟨hwf', ha', fun _ => hfetch, by simp [hrun], by simp [hrun]⟩
    · exact inv_of_running hwf' ha' (by rw [run_of_exec he, if_neg hb, hr])
  | unknown w hf hd ht => exact ht ▸ inv_of_running hwf (aligned_add_four ha) hr
  | invalid hf ht => exact ht ▸ inv_of_running hwf (aligned_add_four ha) hr
  | exhausted hf ht => exact ht ▸ ⟨hwf, ha, nofun, fun _ => hf, nofun⟩
  | fetchFault hf ht => exact ht ▸ ⟨hwf, ha, nofun, nofun, fun _ => hf⟩

/-! ### What no program can tell (R35) -/

/-- An instruction takes states no program can tell apart to states no program can tell apart. -/
theorem exec_indistinguishable {i : Instr} {s s' t : State} (hs : Indistinguishable s s')
    (h : exec i s = .next t) : ∃ t', exec i s' = .next t' ∧ Indistinguishable t t' := by
  obtain ⟨hx, hpc, hrun, hcfg, hread⟩ := hs
  obtain ⟨u, he, hregs, hmem, hupc, hucfg⟩ := exec_values i s
  cases he.symm.trans h
  obtain ⟨t', he', hregs', hmem', hpc', hcfg'⟩ := exec_values i s'
  have hreg : s'.readReg = s.readReg := by funext r; simp only [State.readReg, hx]
  have hres : resultOf s'.cfg.orrMode s'.readReg s'.mem i =
      resultOf s.cfg.orrMode s.readReg s.mem i := by
    rw [← hcfg, hreg, resultOf_congr_read _ _ hread]
  refine ⟨t', he', State.x_ext fun r => ?regs, ?pc, ?run, ?cfg, fun a => ?read⟩
  case regs => rw [hregs, hregs', hres, hreg]
  case pc => rw [hupc, hpc', hreg, hpc]
  case run => rw [run_of_exec he, run_of_exec he', hrun]
  case cfg => rw [hucfg, hcfg', hcfg]
  case read =>
    rw [hmem, hmem', hreg]
    cases storeFrom s.readReg i with
    | none => exact hread a
    | some p => simp only [Memory.read_write, hread]

/-- The two fetch alike. -/
theorem fetch_of_indistinguishable {s s' : State} (hs : Indistinguishable s s') :
    s'.fetch = s.fetch := by
  obtain ⟨-, hpc, -, hcfg, -⟩ := hs
  exact State.fetch_congr (congrArg _ hcfg.symm) hpc.symm

/-- Skipping a slot keeps two states indistinguishable. -/
theorem skipSlot_indistinguishable {s s' : State} (hs : Indistinguishable s s') :
    Indistinguishable s.skipSlot s'.skipSlot := by
  obtain ⟨hx, hpc, hrun, hcfg, hread⟩ := hs
  exact ⟨hx, by rw [State.skipSlot_pc, State.skipSlot_pc, hpc], hrun, hcfg, hread⟩

/-- Ending the run alike keeps two states indistinguishable. -/
theorem endRun_indistinguishable {s s' : State} (hs : Indistinguishable s s') (q : RunState) :
    Indistinguishable (s.endRun q) (s'.endRun q) := by
  obtain ⟨hx, hpc, _, hcfg, hread⟩ := hs
  exact ⟨hx, hpc, rfl, hcfg, hread⟩

/-- A step takes states no program can tell apart to states no program can tell apart. -/
theorem step_indistinguishable {s s' t : State} (hs : Indistinguishable s s') (h : step s = .next t) :
    ∃ t', step s' = .next t' ∧ Indistinguishable t t' := by
  have ⟨_, _, hrun, _, _⟩ := hs
  obtain ⟨hr, hc⟩ := step_cases h
  have hr' : s'.run = .running := hrun ▸ hr
  have hfetch := fetch_of_indistinguishable hs
  cases hc with
  | instr w i hf hd he =>
    obtain ⟨t', he', ht⟩ := exec_indistinguishable hs he
    exact ⟨t', (step_of_decode_instr hr' (hfetch.trans hf) hd).trans he', ht⟩
  | unknown w hf hd ht =>
    exact ⟨_, step_of_decode_unknown hr' (hfetch.trans hf) hd, ht ▸ skipSlot_indistinguishable hs⟩
  | invalid hf ht =>
    exact ⟨_, step_of_fetch_invalid hr' (hfetch.trans hf), ht ▸ skipSlot_indistinguishable hs⟩
  | exhausted hf ht =>
    exact ⟨_, step_of_fetch_exhausted hr' (hfetch.trans hf), ht ▸ endRun_indistinguishable hs _⟩
  | fetchFault hf ht =>
    exact ⟨_, step_of_fetch_fault hr' (hfetch.trans hf), ht ▸ endRun_indistinguishable hs _⟩

/-- What `step` answers of a RUNNING state is a next state. -/
theorem exists_step_of_running {s : State} (hr : s.run = .running) : ∃ t, step s = .next t := by
  cases hf : s.fetch with
  | slot v =>
    cases v with
    | word w =>
      cases hd : decode w with
      | instr i =>
        obtain ⟨t, he, -⟩ := exec_effect i s
        exact ⟨t, (step_of_decode_instr hr hf hd).trans he⟩
      | unknown => exact ⟨_, step_of_decode_unknown hr hf hd⟩
    | invalid => exact ⟨_, step_of_fetch_invalid hr hf⟩
  | exhausted => exact ⟨_, step_of_fetch_exhausted hr hf⟩
  | fetchFault => exact ⟨_, step_of_fetch_fault hr hf⟩

/-- States that are not RUNNING answer by their run state alone. -/
theorem step_congr_of_not_running {s s' : State} (hrun : s.run = s'.run) (hr : s.run ≠ .running) :
    step s = step s' := by
  cases hq : s.run with
  | running => exact absurd hq hr
  | halted => rw [step_of_halted hq, step_of_halted (hrun ▸ hq)]
  | exhausted => rw [step_of_exhausted hq, step_of_exhausted (hrun ▸ hq)]
  | fetchFault => rw [step_of_fetchFault hq, step_of_fetchFault (hrun ▸ hq)]

/-- Settles O59: a RUNNING state has a next state, which `step_indistinguishable` follows; the others answer by
their run state, which the two share. -/
theorem zeroCellsAndIcountAreInvisible : Obligations.ZeroCellsAndIcountAreInvisible := by
  intro s s' hs
  have ⟨_, _, hrun, _, _⟩ := hs
  refine ⟨fun t => step_indistinguishable hs, ?_⟩
  by_cases hr : s.run = .running
  · obtain ⟨t, ht⟩ := exists_step_of_running hr
    rw [ht]
    exact ⟨nofun, nofun⟩
  · rw [step_congr_of_not_running hrun hr]
    exact ⟨fun _ h => h, fun _ h => h⟩

end Sys2Proof.Proofs

/-!
The instructions one by one (files 40 to 46): the whole effect of each, as a `result` or a `retire`, and the
value it computes as a number or bit by bit.
-/

namespace Sys2Proof.Proofs

open Sys2Proof.Machine

/-! ### The three shapes of an instruction's effect -/

/-- A register result changes its register, the pc and icount (R22, R36). -/
theorem registerResult_result (s : State) (rd : Reg) (v : Word) :
    RegisterResult rd v s (s.result rd v) :=
  ⟨readReg_result_same s rd v, fun r hr => by rw [State.readReg_result, if_neg hr], fun _ => rfl,
    s.result_pc rd v, s.result_icount rd v, s.result_run rd v, s.result_cfg rd v⟩

/-- Retiring changes the pc and icount (R36). -/
theorem retired_retire (s : State) (next : Word) : Retired next s (s.retire next) :=
  ⟨s.retire_pc next, s.retire_icount next, s.retire_run next, s.retire_cfg next⟩

/-- A retired branch changes no register and no cell (R150). -/
theorem branched_retire (s : State) (next : Word) : Branched next s (s.retire next) :=
  ⟨s.retire_readReg next, fun _ => rfl, retired_retire s next⟩

/-- An instruction that is a register result leaves its value, of which a fact holds, and nothing else. -/
theorem registerResult_of_exec {i : Instr} {s : State} {rd : Reg} {v : Word}
    (h : exec i s = .next (s.result rd v)) {P : Word → Prop} (hv : P v) :
    ∃ v t, exec i s = .next t ∧ RegisterResult rd v s t ∧ P v :=
  ⟨v, _, h, registerResult_result s rd v, hv⟩

/-- An instruction that is a branch goes on at its pc, of which a fact holds, and changes nothing else. -/
theorem branched_of_exec {i : Instr} {s : State} {next : Word} (h : exec i s = .next (s.retire next))
    {P : Word → Prop} (hn : P next) : ∃ next t, exec i s = .next t ∧ Branched next s t ∧ P next :=
  ⟨next, _, h, branched_retire s next, hn⟩

/-! ### Formats R and I -/

theorem exec_add (rd rn rm : Reg) (s : State) :
    exec (.add rd rn rm) s = .next (s.result rd (s.readReg rn + s.readReg rm)) := rfl
theorem exec_sub (rd rn rm : Reg) (s : State) :
    exec (.sub rd rn rm) s = .next (s.result rd (s.readReg rn - s.readReg rm)) := rfl
theorem exec_and (rd rn rm : Reg) (s : State) :
    exec (.and rd rn rm) s = .next (s.result rd (s.readReg rn &&& s.readReg rm)) := rfl
theorem exec_eor (rd rn rm : Reg) (s : State) :
    exec (.eor rd rn rm) s = .next (s.result rd (s.readReg rn ^^^ s.readReg rm)) := rfl
theorem exec_orr (rd rn rm : Reg) {s : State} (h : s.cfg.orrMode = .or) :
    exec (.orr rd rn rm) s = .next (s.result rd (s.readReg rn ||| s.readReg rm)) := by
  simp only [exec, execOrr, h, State.aluReg, alu]
theorem exec_addi (rd rn : Reg) (imm : BitVec 12) (s : State) :
    exec (.addi rd rn imm) s = .next (s.result rd (s.readReg rn + immOperand imm)) := rfl
theorem exec_subi (rd rn : Reg) (imm : BitVec 12) (s : State) :
    exec (.subi rd rn imm) s = .next (s.result rd (s.readReg rn - immOperand imm)) := rfl

/-- Settles O20. -/
theorem addWritesTheWrappedSum : Obligations.AddWritesTheWrappedSum := fun rd rn rm s =>
  registerResult_of_exec (exec_add rd rn rm s) (BitVec.toNat_add ..)

/-- Settles O21. -/
theorem subWritesTheWrappedDifference : Obligations.SubWritesTheWrappedDifference := fun rd rn rm s =>
  registerResult_of_exec (exec_sub rd rn rm s) (BitVec.toInt_sub ..)

/-- Settles O22. -/
theorem andWritesTheBitwiseAnd : Obligations.AndWritesTheBitwiseAnd := fun rd rn rm s =>
  registerResult_of_exec (exec_and rd rn rm s) fun _ => BitVec.getLsbD_and

/-- Settles O23. -/
theorem orrWritesTheBitwiseOr : Obligations.OrrWritesTheBitwiseOr := fun rd rn rm _ hmode =>
  registerResult_of_exec (exec_orr rd rn rm hmode) fun _ => BitVec.getLsbD_or

/-- Settles O24: the step is skipped (`exec_of_orrSkipped`), and its output is the diagnostic of a skipped
ORR. -/
theorem orrWithoutEffectIsSkipped : Obligations.OrrWithoutEffectIsSkipped := by
  refine ⟨fun rd rn rm s hmode => ?step, fun s w rd rn rm hmode hr hf hd => ?output⟩
  case step => exact ⟨_, exec_of_orrSkipped ⟨rfl, hmode⟩, skipped_skipSlot s⟩
  case output => rw [output_of_fetch_word hr hf, outputOfWord_of_orrSkipped hd ⟨rfl, hmode⟩]

/-- Settles O25. -/
theorem eorWritesTheBitwiseXor : Obligations.EorWritesTheBitwiseXor := fun rd rn rm s =>
  registerResult_of_exec (exec_eor rd rn rm s) fun _ => BitVec.getLsbD_xor

/-- Settles O26: the sum wraps as a signed number, and the immediate keeps its signed value. -/
theorem addiAddsTheSignedImmediate : Obligations.AddiAddsTheSignedImmediate := fun rd rn imm s =>
  registerResult_of_exec (exec_addi rd rn imm s) (by rw [BitVec.toInt_add, toInt_immOperand])

/-- Settles O27: the difference wraps as a signed number, and the immediate keeps its signed value. -/
theorem subiSubtractsTheSignedImmediate : Obligations.SubiSubtractsTheSignedImmediate :=
  fun rd rn imm s =>
    registerResult_of_exec (exec_subi rd rn imm s) (by rw [BitVec.toInt_sub, toInt_immOperand])

/-! ### Format SHIFT -/

theorem exec_lsl (rd rn : Reg) (shamt : BitVec 6) (s : State) :
    exec (.lsl rd rn shamt) s = .next (s.result rd (s.readReg rn <<< shamt.toNat)) := by
  rw [← shamtOperand_low]; rfl
theorem exec_lsr (rd rn : Reg) (shamt : BitVec 6) (s : State) :
    exec (.lsr rd rn shamt) s = .next (s.result rd (s.readReg rn >>> shamt.toNat)) := by
  rw [← shamtOperand_low]; rfl
theorem exec_asr (rd rn : Reg) (shamt : BitVec 6) (s : State) :
    exec (.asr rd rn shamt) s = .next (s.result rd ((s.readReg rn).sshiftRight shamt.toNat)) := by
  rw [← shamtOperand_low]; rfl

/-- Settles O28. -/
theorem lslShiftsLeftFillingWithZeros : Obligations.LslShiftsLeftFillingWithZeros :=
  fun rd rn shamt s => registerResult_of_exec (exec_lsl rd rn shamt s)
    (by rw [BitVec.toNat_shiftLeft, Nat.shiftLeft_eq])

/-- Settles O29. -/
theorem lsrShiftsRightFillingWithZeros : Obligations.LsrShiftsRightFillingWithZeros :=
  fun rd rn shamt s => registerResult_of_exec (exec_lsr rd rn shamt s)
    (by rw [BitVec.toNat_ushiftRight, Nat.shiftRight_eq_div_pow])

/-- Settles O30: the arithmetic shift is the signed value's, a division rounded down. -/
theorem asrShiftsRightKeepingTheSign : Obligations.AsrShiftsRightKeepingTheSign :=
  fun rd rn shamt s => registerResult_of_exec (exec_asr rd rn shamt s)
    (by rw [BitVec.toInt_sshiftRight, Int.shiftRight_eq_div_pow]; push_cast; rfl)

/-! ### Format D -/

/-- The effective address as a number (R52). -/
theorem toNat_effectiveAddress (s : State) (rn : Reg) (off : BitVec 9) :
    (s.effectiveAddress rn off).toNat = ((s.readReg rn).toNat + off.toNat) % 2 ^ 64 := by
  rw [State.effectiveAddress, BitVec.toNat_add, toNat_offsetOperand]

/-- Settles O31: LDUR's result is what the addressed cell reads as. -/
theorem ldurLoadsTheCellOrZero : Obligations.LdurLoadsTheCellOrZero := fun rt rn off s =>
  ⟨_, _, _, exec_ldur rt rn off s, registerResult_result .., rfl, toNat_effectiveAddress s rn off,
    fun _ => read_of_lookup_eq_some, read_of_lookup_eq_none⟩

/-- Settles O32: STUR writes one cell and retires. -/
theorem sturStoresToOneCell : Obligations.SturStoresToOneCell := by
  intro rt rn off s
  refine ⟨_, _, exec_stur rt rn off s, rfl, toNat_effectiveAddress s rn off, ?cell,
    fun b hb => ?others, fun _ => rfl, retired_retire (s.writeMem _ _) _⟩
  case cell => rw [State.retire_mem, State.writeMem_mem, Memory.lookup_write, if_pos rfl]
  case others => rw [State.retire_mem, State.writeMem_mem, Memory.lookup_write, if_neg hb]

/-! ### Formats B and CB -/

/-- A sum of words as an unsigned number, the second word signed. -/
theorem toNat_add_toInt (x d : Word) : ((x + d).toNat : Int) = ((x.toNat : Int) + d.toInt) % 2 ^ 64 := by
  rw [BitVec.toNat_add, BitVec.toInt_eq_toNat_cond]
  split <;> omega

/-- A branch's target as a number (R150). -/
theorem toNat_branchTarget {n : Nat} (s : State) (off : BitVec n) (h : n ≤ 62) :
    ((s.branchTarget off).toNat : Int) = ((s.pc.toNat : Int) + off.toInt * 4) % 2 ^ 64 := by
  rw [State.branchTarget, toNat_add_toInt, toInt_displacement off h]

/-- The default advance as a number (R29). -/
theorem toNat_pc_add_four (s : State) : ((s.pc + 4#64).toNat : Int) = ((s.pc.toNat : Int) + 4) % 2 ^ 64 :=
  toNat_add_toInt s.pc 4#64

/-- A word is 0 when the number it stands for is. -/
theorem eq_zero_iff_toNat (v : Word) : v = 0#64 ↔ v.toNat = 0 := BitVec.toNat_inj.symm

/-- Settles O33. -/
theorem bGoesToItsTarget : Obligations.BGoesToItsTarget := fun off s =>
  branched_of_exec (exec_b off s) (toNat_branchTarget s off (by decide))

/-- Settles O34: taken to the target on zero, else on to pc + 4. -/
theorem cbzBranchesOnZero : Obligations.CbzBranchesOnZero := by
  refine fun rt off s => branched_of_exec (exec_cbz rt off s) ?_
  simp only [eq_zero_iff_toNat]
  split
  · exact toNat_branchTarget s off (by decide)
  · exact toNat_pc_add_four s

/-- Settles O35: on to pc + 4 on zero, else taken to the target. -/
theorem cbnzBranchesOnNonzero : Obligations.CbnzBranchesOnNonzero := by
  refine fun rt off s => branched_of_exec (exec_cbnz rt off s) ?_
  simp only [eq_zero_iff_toNat]
  split
  · exact toNat_pc_add_four s
  · exact toNat_branchTarget s off (by decide)

/-! ### Format IM -/

theorem exec_movz (rd : Reg) (field : BitVec 16) (hw : BitVec 2) (s : State) :
    exec (.movz rd field hw) s = .next (s.result rd (field.setWidth 64 <<< hwShift hw)) := by
  rw [← fieldOperand_low]; rfl
theorem exec_movk (rd : Reg) (field : BitVec 16) (hw : BitVec 2) (s : State) :
    exec (.movk rd field hw) s = .next (s.result rd
      ((s.readReg rd &&& ~~~(0xFFFF#64 <<< hwShift hw)) ||| field.setWidth 64 <<< hwShift hw)) := by
  rw [← fieldOperand_low]; rfl

/-- Settles O36: a 16-bit field shifted by at most 48 loses no bit. -/
theorem movzWritesTheShiftedField : Obligations.MovzWritesTheShiftedField := by
  refine fun rd field hw s => registerResult_of_exec (exec_movz rd field hw s) ?_
  have hfield := field.isLt
  have hhw : 16 * hw.toNat ≤ 48 := by have := hw.isLt; omega
  have hfit : field.toNat * 2 ^ (16 * hw.toNat) < 2 ^ 64 :=
    calc field.toNat * 2 ^ (16 * hw.toNat) ≤ field.toNat * 2 ^ 48 :=
          Nat.mul_le_mul_left _ (Nat.pow_le_pow_right (by decide) hhw)
      _ < 2 ^ 64 := by omega
  rw [hwShift, Nat.mul_comm, BitVec.toNat_shiftLeft, BitVec.toNat_setWidth_of_le (by decide),
    Nat.shiftLeft_eq, Nat.mod_eq_of_lt hfit]

/-- The bits of MOVK's window before it is moved to its place. -/
theorem getLsbD_low_window (k : Nat) : (0xFFFF#64).getLsbD k = decide (k < 16) := by
  have h : 0xFFFF#64 = (BitVec.allOnes 16).setWidth 64 := by decide
  rw [h, BitVec.getLsbD_setWidth, BitVec.getLsbD_allOnes, Bool.and_eq_right_iff_imp]
  simp only [decide_eq_true_eq]
  omega

/-- Settles O37: below the window and above it both shifted words are 0, and in it the mask is all ones. -/
theorem movkReplacesOneWindow : Obligations.MovkReplacesOneWindow := by
  refine fun rd field hw s => registerResult_of_exec (exec_movk rd field hw s) fun k hk => ?_
  simp only [hwShift, Nat.mul_comm hw.toNat, BitVec.getLsbD_or, BitVec.getLsbD_and, BitVec.getLsbD_not,
    BitVec.getLsbD_shiftLeft, getLsbD_low_window, BitVec.getLsbD_setWidth, hk, decide_true,
    Bool.true_and]
  by_cases hlo : k < 16 * hw.toNat
  · have hout : ¬ (16 * hw.toNat ≤ k ∧ k < 16 * hw.toNat + 16) := by omega
    simp [hlo, hout]
  by_cases hhi : k < 16 * hw.toNat + 16
  · have hin : 16 * hw.toNat ≤ k ∧ k < 16 * hw.toNat + 16 := by omega
    have hpos : k - 16 * hw.toNat < 16 ∧ k - 16 * hw.toNat < 64 := by omega
    simp [hlo, hin, hpos]
  · have hout : ¬ (16 * hw.toNat ≤ k ∧ k < 16 * hw.toNat + 16) := by omega
    have hpos : ¬ k - 16 * hw.toNat < 16 := by omega
    have hfield : field.getLsbD (k - 16 * hw.toNat) = false := BitVec.getLsbD_of_ge _ _ (by omega)
    simp [hlo, hout, hpos, hfield]

/-! ### NOP and BREAK -/

theorem exec_nop (s : State) : exec .nop s = .next (s.retire s.nextPc) := rfl
theorem exec_brk (s : State) : exec .brk s = .next ((s.retire s.pc).endRun .halted) := rfl

/-- Settles O38. -/
theorem nopOnlyAdvances : Obligations.NopOnlyAdvances := fun s =>
  ⟨_, exec_nop s, s.retire_readReg _, fun _ => rfl, retired_retire s _⟩

/-- Settles O39: BREAK retires at its own address and ends the run, which then has no step. -/
theorem breakHalts : Obligations.BreakHalts := by
  intro s
  refine ⟨_, exec_brk s, rfl, rfl, rfl, fun _ => rfl, fun _ => rfl, rfl, fun u hu => ?_⟩
  rw [step_of_halted (State.endRun_run ..)] at hu
  cases hu

/-- Settles O40, by the rule of a register write. -/
theorem everyRegisterReadsBack : Obligations.EveryRegisterReadsBack := by
  intro s r q v
  exact ⟨by rw [State.readReg_writeReg, if_pos rfl],
    fun hne => by rw [State.readReg_writeReg, if_neg hne]⟩

end Sys2Proof.Proofs

/-!
Reset and launch (70_reset_and_hazards.md R230, R233): the presets are register and cell writes in the order
given, so the last one of an index or key stands and nothing else changes.
-/

namespace Sys2Proof.Proofs

open Sys2Proof.Machine

/-! ### Presets -/

/-- INIT_REGS applied in the order given (R24, log 15). -/
def presetRegs (s : State) (regs : List (Reg × Word)) : State :=
  regs.foldl (fun s p => s.writeReg p.1 p.2) s

/-- INIT_MEM applied in the order given (R26, log 15). -/
def presetCells (s : State) (cells : List (Key × Word)) : State :=
  cells.foldl (fun s p => s.writeMem p.1 p.2) s

/-- A launch is reset, IMAGE and ORR_MODE, the register presets, and the cell presets (R233). -/
theorem launch_eq (cfg : Config) (regs : List (Reg × Word)) (cells : List (Key × Word)) :
    State.launch cfg regs cells = presetCells (presetRegs { State.reset with cfg := cfg } regs) cells :=
  rfl

/-- Register presets change registers alone. -/
theorem presetRegs_frame (s : State) (regs : List (Reg × Word)) :
    (presetRegs s regs).pc = s.pc ∧ (presetRegs s regs).mem = s.mem ∧
      (presetRegs s regs).run = s.run ∧ (presetRegs s regs).icount = s.icount ∧
      (presetRegs s regs).cfg = s.cfg := by
  induction regs generalizing s with
  | nil => exact ⟨rfl, rfl, rfl, rfl, rfl⟩
  | cons p regs ih => exact ih (s.writeReg p.1 p.2)

/-- Cell presets change cells alone. -/
theorem presetCells_frame (s : State) (cells : List (Key × Word)) :
    (presetCells s cells).x = s.x ∧ (presetCells s cells).pc = s.pc ∧
      (presetCells s cells).run = s.run ∧ (presetCells s cells).icount = s.icount ∧
      (presetCells s cells).cfg = s.cfg := by
  induction cells generalizing s with
  | nil => exact ⟨rfl, rfl, rfl, rfl, rfl⟩
  | cons p cells ih => exact ih (s.writeMem p.1 p.2)

/-- Cell presets keep the memory's canonical form (log 3). -/
theorem presetCells_wf {s : State} (h : s.mem.wf) (cells : List (Key × Word)) :
    (presetCells s cells).mem.wf := by
  induction cells generalizing s with
  | nil => exact h
  | cons p cells ih => exact ih (s := s.writeMem p.1 p.2) (Memory.wf_write h p.1 p.2)

/-- A register that no preset names keeps its value. -/
theorem readReg_presetRegs_of_forall_ne {r : Reg} {regs : List (Reg × Word)}
    (h : ∀ p ∈ regs, p.1 ≠ r) (s : State) : (presetRegs s regs).readReg r = s.readReg r := by
  induction regs generalizing s with
  | nil => rfl
  | cons p regs ih =>
    obtain ⟨hp, hrest⟩ := List.forall_mem_cons.1 h
    calc (presetRegs s (p :: regs)).readReg r
        = (s.writeReg p.1 p.2).readReg r := ih hrest _
      _ = s.readReg r := by rw [State.readReg_writeReg, if_neg hp.symm]

/-- A cell that no preset names stays as it is. -/
theorem lookup_presetCells_of_forall_ne {a : Key} {cells : List (Key × Word)}
    (h : ∀ p ∈ cells, p.1 ≠ a) (s : State) :
    (presetCells s cells).mem.lookup a = s.mem.lookup a := by
  induction cells generalizing s with
  | nil => rfl
  | cons p cells ih =>
    obtain ⟨hp, hrest⟩ := List.forall_mem_cons.1 h
    calc (presetCells s (p :: cells)).mem.lookup a
        = (s.writeMem p.1 p.2).mem.lookup a := ih hrest _
      _ = s.mem.lookup a := by rw [State.writeMem_mem, Memory.lookup_write, if_neg hp.symm]

/-- The last preset of a register stands. -/
theorem readReg_presetRegs_last (s : State) {r : Reg} (v : Word) (before : List (Reg × Word))
    {after : List (Reg × Word)} (h : ∀ p ∈ after, p.1 ≠ r) :
    (presetRegs s (before ++ (r, v) :: after)).readReg r = v := by
  calc (presetRegs s (before ++ (r, v) :: after)).readReg r
      = (presetRegs ((presetRegs s before).writeReg r v) after).readReg r := by
        rw [presetRegs, List.foldl_append]; rfl
    _ = ((presetRegs s before).writeReg r v).readReg r := readReg_presetRegs_of_forall_ne h _
    _ = v := by rw [State.readReg_writeReg, if_pos rfl]

/-- The last preset of a cell stands. -/
theorem lookup_presetCells_last (s : State) {a : Key} (v : Word) (before : List (Key × Word))
    {after : List (Key × Word)} (h : ∀ p ∈ after, p.1 ≠ a) :
    (presetCells s (before ++ (a, v) :: after)).mem.lookup a = some v := by
  calc (presetCells s (before ++ (a, v) :: after)).mem.lookup a
      = (presetCells ((presetCells s before).writeMem a v) after).mem.lookup a := by
        rw [presetCells, List.foldl_append]; rfl
    _ = ((presetCells s before).writeMem a v).mem.lookup a := lookup_presetCells_of_forall_ne h _
    _ = some v := by rw [State.writeMem_mem, Memory.lookup_write, if_pos rfl]

/-! ### Reset -/

/-- Every register is 0 after reset (R230). -/
theorem readReg_reset (r : Reg) : State.reset.readReg r = 0#64 := Vector.getElem_replicate ..

/-- Settles O55. -/
theorem resetState : Obligations.ResetState :=
  ⟨readReg_reset, rfl, lookup_reset_mem, rfl, rfl, rfl, rfl⟩

/-- Settles O57: a RUNNING state with no cell, at 96. -/
theorem resetMeetsTheInvariant : Obligations.ResetMeetsTheInvariant :=
  inv_of_running reset_mem_wf (by decide) rfl

/-! ### Launch -/

/-- Register reads see through the cell presets. -/
theorem readReg_presetCells (s : State) (cells : List (Key × Word)) (r : Reg) :
    (presetCells s cells).readReg r = s.readReg r := by
  simp only [State.readReg, (presetCells_frame s cells).1]

/-- A launch's registers are the register presets over reset. -/
theorem readReg_launch (cfg : Config) (regs : List (Reg × Word)) (cells : List (Key × Word)) (r : Reg) :
    (State.launch cfg regs cells).readReg r =
      (presetRegs { State.reset with cfg := cfg } regs).readReg r := by
  rw [launch_eq, readReg_presetCells]

/-- What presets do not touch is as after reset (R230, R233). -/
theorem launch_frame (cfg : Config) (regs : List (Reg × Word)) (cells : List (Key × Word)) :
    (State.launch cfg regs cells).mem.wf ∧ (State.launch cfg regs cells).pc = 96#64 ∧
      (State.launch cfg regs cells).run = .running ∧ (State.launch cfg regs cells).icount = 0 ∧
      (State.launch cfg regs cells).cfg = cfg := by
  obtain ⟨hpc, hmem, hrun, hic, hcfg⟩ := presetRegs_frame { State.reset with cfg := cfg } regs
  obtain ⟨-, hpc', hrun', hic', hcfg'⟩ :=
    presetCells_frame (presetRegs { State.reset with cfg := cfg } regs) cells
  rw [launch_eq]
  exact ⟨presetCells_wf (hmem ▸ reset_mem_wf) cells, hpc'.trans hpc, hrun'.trans hrun, hic'.trans hic,
    hcfg'.trans hcfg⟩

/-- Settles O56: a launch is presets over reset, and a launched state is RUNNING at 96 with a memory that
writes alone have made. -/
theorem launchMeetsTheInvariant : Obligations.LaunchMeetsTheInvariant := by
  intro cfg regs cells
  obtain ⟨hwf, hpc, hrun, hic, hcfg⟩ := launch_frame cfg regs cells
  refine ⟨inv_of_running hwf (by rw [hpc]; rfl) hrun, hpc, hrun, hic, hcfg, ?lastReg, ?lastCell, ?reg,
    ?cell⟩
  case lastReg =>
    rintro r v before after rfl hafter
    rw [readReg_launch]
    exact readReg_presetRegs_last _ v before hafter
  case lastCell =>
    rintro a v before after rfl hafter
    rw [launch_eq]
    exact lookup_presetCells_last _ v before hafter
  case reg =>
    intro r hr
    rw [readReg_launch, readReg_presetRegs_of_forall_ne hr]
    exact readReg_reset r
  case cell =>
    intro a ha
    obtain ⟨-, hmem, -, -, -⟩ := presetRegs_frame { State.reset with cfg := cfg } regs
    rw [launch_eq, lookup_presetCells_of_forall_ne ha, hmem]
    exact lookup_reset_mem a

end Sys2Proof.Proofs

/-!
The block interfaces (70_reset_and_hazards.md R240 to R246, D17): on a word that decodes, the blocks' signals
clocked into the state are the instruction's meaning.
-/

namespace Sys2Proof.Proofs

open Sys2Proof.Machine

/-- Choosing by a negated test is choosing the other way by the test. -/
theorem ite_bnot (z : Bool) (a b : Word) : (if !z then a else b) = if z then b else a := by
  cases z <;> rfl

/-- The blocks compute the meaning of the instruction of each mnemonic. The two that need a case of their own
are ORR, whose write enable is ORR_MODE's, and CBNZ, whose meaning tests for nonzero where the pc unit tests
`z`. -/
theorem exec_instrOf_eq_clockState (m : Mnemonic) (w : InstrWord) (s : State) :
    exec (instrOf m w) s = .next (clockState m (signals m w s) s) := by
  cases m with
  | orr =>
    obtain ⟨x, pc, mem, run, icount, ⟨image, mode⟩⟩ := s
    cases mode with
    | or => rfl
    | noEffect => rfl
  | cbnz =>
    exact congrArg (fun n => (.next (s.retire n) : StepOutcome))
      (ite_bnot (zeroTest (s.readReg (fieldRd w))) (s.branchTarget (fieldOffsetCB w)) s.nextPc)
  | _ => rfl

/-- The decoder's mnemonic is the classifier's row's (R240). -/
theorem decoderMnemonic_of_decode {w : InstrWord} {i : Instr} (h : decode w = .instr i) :
    decoderMnemonic w = some i.mnemonic ∧ i = instrOf i.mnemonic w := by
  obtain ⟨r, hr, hm, rfl⟩ := decode_sound h
  rw [decoderMnemonic, classify_of_matches hr hm, instrOf_mnemonic]
  exact ⟨rfl, rfl⟩

/-- On UNKNOWN the decoder names no mnemonic (R240). -/
theorem decoderMnemonic_of_unknown {w : InstrWord} (h : decode w = .unknown) :
    decoderMnemonic w = none := by
  rw [decoderMnemonic, decode_eq_unknown_iff.1 h, Option.map_none]

/-- Settles O60: a word that decodes by the instruction's own case, an UNKNOWN word and an Invalid slot by the
pc unit's default advance. -/
theorem datapathComputesTheStep : Obligations.DatapathComputesTheStep := by
  intro s v hr hf
  cases v with
  | invalid => exact step_of_fetch_invalid hr hf
  | word w =>
    cases hd : decode w with
    | unknown =>
      rw [step_of_decode_unknown hr hf hd]
      simp only [datapathStep, decoderMnemonic_of_unknown hd]
      rfl
    | instr i =>
      obtain ⟨hm, hi⟩ := decoderMnemonic_of_decode hd
      rw [step_of_decode_instr hr hf hd, hi, exec_instrOf_eq_clockState]
      simp only [datapathStep, hm]

end Sys2Proof.Proofs
